-- ==== Sys2Proof/Word.lean ====
section
/-! DEFINITION. The word types of the block (spec/00_scope.md R6, R8): every register is one byte, a stimulus word has
16 bits (spec/30_encoding.md R73), and wide reads return 16 or 32 bits (spec/40_register_file.md R94, R95). -/

namespace Sys2Proof

/-- A byte: bit 0 is the least significant, bit 7 the most significant (R8). -/
abbrev Byte := BitVec 8

/-- The result width of a 16-bit read (R94). -/
abbrev Half := BitVec 16

/-- The result width of a 32-bit read (R95). -/
abbrev Wide := BitVec 32

/-- A stimulus word, format `S` (R73). -/
abbrev StimWord := BitVec 16

end Sys2Proof
end

