-- ==== Sys2Proof/Config.lean ====
section
/-! DEFINITION. The parameters of the block: what the source fixes (spec/00_scope.md R6) as constants, what it leaves
open (R7, R34) as the fields of `Config`. A state carries its `Config`, so a statement about every state is a statement
about every value of the open parameters. -/

namespace Sys2Proof

/-- One queue entry, format `QE` (spec/30_encoding.md R65): the data byte and the auxiliary byte. -/
structure Entry where
  data : Byte
  aux  : Byte
deriving DecidableEq, Repr

/-- Queue capacity `CAP` (R6). -/
abbrev cap : Nat := 256

/-- `RAM_UNIT`, 128 KiB (R6). -/
abbrev ramUnit : Nat := 131072

/-- The one timer channel the block drives (R6, R148). -/
abbrev gateChannel : Nat := 2

/-- The upper limit of `MEM_BYTES` (R7, R165). -/
abbrev memLimit : Nat := 2 ^ 25

/-- The implementation parameters of R7. The two line names are the constructors of `Line` in Machine/State.lean. -/
structure Config where
  /-- `MEM_BYTES`, the total memory size given at construction. -/
  memBytes : Nat
  /-- `RAM_CODE`, the value of `portC[1]`, under the law of R19. -/
  ramCode : Byte
  /-- `CFG_A`, the fixed configuration pattern `portA[0]` (R16). -/
  cfgA : Byte
  /-- `PORTA1_RESET`. -/
  portA1Reset : Byte
  /-- `PORTB_RESET`. -/
  portBReset : Byte
  /-- `PORTC0_RESET`. -/
  portC0Reset : Byte
  /-- `MODE_RESET`. -/
  modeReset : Byte
  /-- `BUF_RESET`, the reset contents of the queue buffer. -/
  bufReset : Vector Entry 256
  /-- `PORT_A_ADDR`, the bus address of the data port (R41). -/
  portAAddr : Nat
  /-- `PORT_B_ADDR`, the bus address of the control port. -/
  portBAddr : Nat
  /-- `PORT_C_ADDR`, the bus address of the status port. -/
  portCAddr : Nat
  /-- `PORT_CMD_ADDR`, the bus address of the command port. -/
  portCmdAddr : Nat
  /-- `PAUSE_CODE`, the sentinel key code (R64, R132). -/
  pauseCode : Byte
  /-- `ARB_LIVE`: whether the arbiter's disabled assert branch is enabled (R123); `false` in the documented revision. -/
  arbLive : Bool
deriving DecidableEq, Repr

/-- What R7, R19 and R41 ask of the parameters: `MEM_BYTES < 2^25`; the law `MEM_BYTES < 131072 -> RAM_CODE = 0`; four
distinct port addresses. -/
def Config.wf (c : Config) : Bool :=
  decide (c.memBytes < memLimit) &&
  (decide (ramUnit ≤ c.memBytes) || c.ramCode == 0) &&
  decide ([c.portAAddr, c.portBAddr, c.portCAddr, c.portCmdAddr].Nodup)

/-- The default formula of `RAM_CODE` (R19): whole units of 128 KiB. DESIGN CHOICE of the spec (D5), log 6. -/
def ramCodeOf (memBytes : Nat) : Byte := BitVec.ofNat 8 (memBytes / ramUnit)

/-- The defaults of R7 at a given memory size. The port addresses (log 4) and the pause code (log 3) are PRESUMED; the
reset bytes are the spec's decisions D2 to D9 (log 7). -/
def Config.ofMemory (memBytes : Nat) : Config where
  memBytes := memBytes
  ramCode := ramCodeOf memBytes
  cfgA := 0x3C
  portA1Reset := 0x00
  portBReset := 0x80
  portC0Reset := 0x03
  modeReset := 0x00
  bufReset := Vector.replicate 256 ⟨0x00, 0x00⟩
  portAAddr := 0x60
  portBAddr := 0x61
  portCAddr := 0x62
  portCmdAddr := 0x63
  pauseCode := 0xFF
  arbLive := false

/-- The configuration of `State.reset`: 512 KiB of memory (log 5), the memory size of the source's scenario (R33). -/
def Config.default : Config := Config.ofMemory 524288

end Sys2Proof
end

