-- ==== Sys2Proof/Syntax.lean ====
section
/-! DEFINITION. The operations of the block as syntax: one constructor per row of spec/opcode_table.json, in the table's
order (spec/30_encoding.md R60, R73, R75). Fields are the row's free bits, already pulled apart. -/

namespace Sys2Proof

/-- The port select of a bus access (spec/20_memory.md R40): one of the four ports, or `OTHER(k)` with `4 ≤ k ≤ 15`
(R71). -/
inductive Port where
  | a | b | c | cmd
  | other (k : BitVec 4)
deriving DecidableEq, Repr

/-- The two kinds of collaborator a `BIND` can offer (spec/60_exceptions.md R151). -/
inductive Collaborator where
  | timer | irq
deriving DecidableEq, Repr

/-- The outside agents that act on the block (spec/60_exceptions.md R154). -/
inductive Agent where
  | bus | input | host
deriving DecidableEq, Repr

/-- Why a word is not a stimulus (R73): its `OP` is 0xB to 0xF, or it breaks a "must be" on `SEL` or on `DATA`. -/
inductive NotStimulus where
  | reservedOp
  | badSel
  | badData
deriving DecidableEq, Repr

/-- The operations that have a stimulus word. -/
inductive Instr where
  /-- `RD8.A` (R81). -/
  | rd8A
  /-- `RD8.B` (R82). -/
  | rd8B
  /-- `RD8.C` (R83). -/
  | rd8C
  /-- `RD8.CMD` (R84). -/
  | rd8Cmd
  /-- `RD8.OTHER`, first row: `SEL` 4 to 7, `s = SEL[1:0]` (R85). -/
  | rd8OtherLow (s : BitVec 2)
  /-- `RD8.OTHER`, second row: `SEL` 8 to 15, `s = SEL[2:0]` (R85). -/
  | rd8OtherHigh (s : BitVec 3)
  /-- `WR8.A` (R86). -/
  | wr8A (v : Byte)
  /-- `WR8.B`, the control byte in format `PB` (R87, R63). -/
  | wr8B (v : Byte)
  /-- `MODESET`, the seven low bits of a command byte with bit 7 set, format `M` (R89, R61). -/
  | modeset (f : BitVec 7)
  /-- `BITSET`, the ignored bits `x = v[6:4]` and the bit index `n = v[3:1]`, format `BSR` (R90, R62). -/
  | bitset (x n : BitVec 3)
  /-- `BITCLR`, fields as for `bitset` (R91, R62). -/
  | bitclr (x n : BitVec 3)
  /-- `WR8.C` (R92). -/
  | wr8C (v : Byte)
  /-- `WR8.OTHER`, first row: `SEL` 4 to 7 (R93). -/
  | wr8OtherLow (s : BitVec 2) (v : Byte)
  /-- `WR8.OTHER`, second row: `SEL` 8 to 15 (R93). -/
  | wr8OtherHigh (s : BitVec 3) (v : Byte)
  /-- `RD16` at any port select (R94). -/
  | rd16 (p : Port)
  /-- `WR16` at any port select, `v` the low byte of the value (R96). -/
  | wr16 (p : Port) (v : Byte)
  /-- `RD32` at any port select (R95). -/
  | rd32 (p : Port)
  /-- `WR32` at any port select, `v` the low byte of the value (R97). -/
  | wr32 (p : Port) (v : Byte)
  /-- `KEYDOWN c`, key code in format `K` (R130, R64). -/
  | keydown (c : Byte)
  /-- `KEYDOWN` of the sentinel `PAUSE_CODE` (R132). -/
  | keydownPause
  /-- `KEYUP c` (R131). -/
  | keyup (c : Byte)
  /-- `QPUSH d, a` with `a` the four bits the stimulus word carries (R114). -/
  | qpush (a : BitVec 4) (d : Byte)
  /-- `BIND k` (R151). -/
  | bind (k : Collaborator)
  /-- `SNAPSHOT` (R153). -/
  | snapshot
deriving DecidableEq, Repr

end Sys2Proof
end

