-- ==== Sys2Proof/Machine/State.lean ====
section
/-! DEFINITION. The whole state of the block (spec/10_state.md R33) and its value after construction
(spec/70_reset_and_hazards.md R165), with the events it emits (spec/00_scope.md R10), the values its operations return,
and the reasons a step can be refused. -/

namespace Sys2Proof.Machine

/-- The two interrupt lines (R142): `LINE_KBD`, the primary keyboard line, and `LINE_AUX`, the auxiliary/mouse line. The
source gives their numbers nowhere; the spec asks for two distinct names (R7, log 8). -/
inductive Line where
  | kbd | aux
deriving DecidableEq, Repr

/-- An output event (R10): a call the block makes on a collaborator. -/
inductive Event where
  /-- `TimerGate(channel, level)`: set a timer channel's gate input (R148). -/
  | timerGate (channel : Nat) (level : Bool)
  /-- `IrqSet(line, level)`: set an interrupt line to a level, 0 or non-zero (R149). -/
  | irqSet (line : Line) (level : Nat)
deriving DecidableEq, Repr

/-- The persisted record (R153), the abstract tuple in the order the source names its fields. -/
structure Record where
  capacity      : Nat
  data          : Vector Byte 256
  aux           : Vector Byte 256
  readPosition  : Nat
  writePosition : Nat
  length        : Nat
deriving DecidableEq, Repr

/-- The value an operation gives its caller (R9 `return`): none, a byte, the zero of a wide read, or a record. -/
inductive Result where
  | none
  | byte (v : Byte)
  | half (v : Half)
  | wide (v : Wide)
  | record (r : Record)
deriving DecidableEq, Repr

/-- The block raises no exception and nothing in it faults (R140, spec/93_implementation_defined.md part 1): there is no
fault, so the type has no constructor. -/
inductive Fault where
deriving DecidableEq, Repr

/-- Why a step has no meaning. Every one stops the machine where the spec gives no behaviour, which is safe. -/
inductive Refusal where
  /-- An operation whose meaning is not written. Raised by no arm of `exec`. Safe. -/
  | notModelled (mnemonic : String)
  /-- A bus or input operation while a collaborator is unbound (R152, D19). Raised by every bus and input operation. Safe. -/
  | unwired
  /-- The next word of `stimuli` is not a stimulus (R73). Raised by the step. Safe. -/
  | notAStimulus (why : NotStimulus) (w : StimWord)
  /-- A bus access whose width is not 1, 2 or 4 bytes (R56, U19). Raised by `busRead` and `busWrite`. Safe. -/
  | badWidth (n : Nat)
  /-- Construction with parameters outside R165 (c), R19 or R41 (U17, log 20). Raised by `construct`. Safe. -/
  | badConfig
  /-- Loading a record of another capacity or one that breaks R24, R25 or R28 (R153 (f), U18). Raised by `loadRecord`.
  Safe. -/
  | badRecord
deriving DecidableEq, Repr

/-- The state: the tuple of R33, the fixed configuration (R34), and four fields of the model's own. -/
structure State where
  /-- The parameters, which no operation changes (R34). -/
  cfg : Config
  /-- `portA[0]`, a constant of the device (R16). -/
  portA0 : Byte
  /-- `portA[1]`, the most recently latched keyboard byte (R16). -/
  portA1 : Byte
  /-- `portB`, the control byte as last written (R17). -/
  portB : Byte
  /-- `portC[0]`, the status byte (R20). -/
  portC0 : Byte
  /-- `portC[1]`, the RAM-size code, constant (R19). -/
  portC1 : Byte
  /-- `mode`, the last command byte written with bit 7 set (R21). -/
  mode : Byte
  /-- `buf[0..255]` (R23). -/
  buf : Vector Entry 256
  /-- `rp`, the slot the next dequeue reads (R24). -/
  rp : Byte
  /-- `wp`, the slot the next enqueue writes (R24). -/
  wp : Byte
  /-- `len`, the occupancy, 0 to 256 (R25). -/
  len : Nat
  /-- `bound_timer` (R31). -/
  boundTimer : Bool
  /-- `bound_irq` (R31). -/
  boundIrq : Bool
  /-- The output trace, oldest event first (R10). -/
  trace : List Event
  /-- MODEL: the value the last operation gave its caller (R9, R10; log 21). -/
  result : Result
  /-- MODEL: the operations the outside agents have still to invoke, in order, as stimulus words (R71, R73; log 1). -/
  stimuli : List StimWord
  /-- MODEL: the pushes of the input agent's current key event that are not made yet (R51; log 2). -/
  pending : List Entry
  /-- MODEL: the outside's choice at each point between two pushes of a key event: `true` lets another agent's operation
  run first, `false`, and the end of the list, let the next push run (R51, U20; log 2). -/
  schedule : List Bool
deriving DecidableEq, Repr

/-- The device right after `CONSTRUCT` with configuration `c` (R165). -/
def State.ofConfig (c : Config) : State where
  cfg := c
  portA0 := c.cfgA
  portA1 := c.portA1Reset
  portB := c.portBReset
  portC0 := c.portC0Reset
  portC1 := c.ramCode
  mode := c.modeReset
  buf := c.bufReset
  rp := 0
  wp := 0
  len := 0
  boundTimer := false
  boundIrq := false
  trace := []
  result := .none
  stimuli := []
  pending := []
  schedule := []

/-- The machine right after reset: construction with the defaults of R7 and 512 KiB of memory (R165's example; log 5). -/
def State.reset : State := State.ofConfig Config.default

end Sys2Proof.Machine
end

