-- ==== Sys2Proof/Machine/Flags.lean ====
section
/-! DEFINITION. The block has no flags, condition codes or predicates (spec/10_state.md R15): no operation computes one.
What stands here are the named bits of the control byte (R17, spec/30_encoding.md R63) and the six views of the mode byte
(R22), which are functions of the stored byte and no storage of their own. -/

namespace Sys2Proof.Machine

/-- Bit 7 of a control byte, `CLR`/`SWA`: clear keyboard at a write, read high switches when stored (R17). -/
def clrBit (v : Byte) : Bool := v[7]

/-- Bit 6 of a control byte, `CLKH`: keyboard clock high (R17). -/
def clkhBit (v : Byte) : Bool := v[6]

/-- Bit 2 of a control byte, `BANK`: which byte the status port returns (R17). -/
def bankBit (v : Byte) : Bool := v[2]

/-- Bit 1 of a control byte, `SPKD`: stored and read back only (R17). -/
def spkdBit (v : Byte) : Bool := v[1]

/-- Bit 0 of a control byte, `GATE`: forwarded to the timer at every write (R17). -/
def gateBit (v : Byte) : Bool := v[0]

/-- `groupA_mode = mode[6:5]` (R22). -/
def State.groupAMode (s : State) : BitVec 2 := s.mode.extractLsb' 5 2

/-- `groupB_mode = mode[2]` (R22). -/
def State.groupBMode (s : State) : Bool := s.mode[2]

/-- `dirA = mode[4]`, 1 = input (R22). -/
def State.dirA (s : State) : Bool := s.mode[4]

/-- `dirB = mode[1]`, 1 = input (R22). -/
def State.dirB (s : State) : Bool := s.mode[1]

/-- `dirC_low = mode[0]`, 1 = input (R22). -/
def State.dirCLow (s : State) : Bool := s.mode[0]

/-- `dirC_high = mode[3]`, 1 = input (R22). -/
def State.dirCHigh (s : State) : Bool := s.mode[3]

end Sys2Proof.Machine
end

