-- ==== Sys2Proof/Machine/Operands.lean ====
section
/-! DEFINITION. Operand assembly, in one place (spec/30_encoding.md R64, R66, R67): bit masks, scancode bytes, the bytes a
key event pushes, cursor arithmetic. Nothing is sign-extended anywhere in the block (R67). -/

namespace Sys2Proof.Machine

/-- The mask `1 << n` of a single-bit command, a byte with exactly one bit set (R67 (a)). -/
def bitMask (n : BitVec 3) : Byte := 1#8 <<< n.toNat

/-- The self-test byte a control-port write with bit 6 set pushes (R66). -/
def selfTestByte : Byte := 0xAA

/-- The extended-key prefix byte (R66). -/
def extendedByte : Byte := 0xE0

/-- The fixed six-byte pause sequence (R66, R132). -/
def pauseBytes : List Byte := [0xE1, 0x1D, 0x45, 0xE1, 0x9D, 0xC5]

/-- The sign bit of a key code: the "extended key" indicator (R64). -/
def isExtended (code : Byte) : Bool := code[7]

/-- The extended-key prefix, where the code has its sign bit set (R130, R131). -/
def extension (c : Byte) : List Byte := if isExtended c then [extendedByte] else []

/-- The make byte: the code with its sign bit cleared (R64, R130). -/
def makeByte (c : Byte) : Byte := c &&& 0x7F

/-- The release byte: the code with bit 7 forced to 1 (R64, R131). -/
def breakByte (c : Byte) : Byte := c ||| 0x80

/-- The bytes a key press pushes (R130): the sentinel test comes first. -/
def pressBytes (pause c : Byte) : List Byte :=
  if c = pause then pauseBytes else extension c ++ [makeByte c]

/-- The bytes a key release pushes (R131); the sentinel has no case of its own here (D16, log 14). -/
def releaseBytes (c : Byte) : List Byte := extension c ++ [breakByte c]

/-- Keyboard-origin entries: auxiliary flag zero (R133). -/
def keyEntries (bs : List Byte) : List Entry := bs.map fun b => ⟨b, 0⟩

/-- Cursor advance, `(x + 1) mod 256` (R67 (f), R116). -/
def nextSlot (x : Byte) : Byte := x + 1

/-- The fallback index, `(rp - 1) mod 256` (R67 (f), R116). -/
def prevSlot (x : Byte) : Byte := x - 1

end Sys2Proof.Machine
end

