-- ==== Sys2Proof/Machine/Ops.lean ====
section
/-! DEFINITION. The named operations over the state that the meanings share: buffer slots, events, the arbiter
(spec/42_interrupt_arbiter.md), the queue (spec/41_event_queue.md), the wiring precondition (spec/60_exceptions.md R152),
and the pushes of the input agent (spec/20_memory.md R51). The block takes no exception and returns from none (R140,
R145, R146), so there is no such operation. -/

namespace Sys2Proof.Machine

/-- The contents of slot `i` (R23). -/
def slot (b : Vector Entry 256) (i : Byte) : Entry := b[i.toNat]'i.isLt

/-- The buffer with slot `i` replaced (R23). -/
def setSlot (b : Vector Entry 256) (i : Byte) (e : Entry) : Vector Entry 256 := b.set i.toNat e i.isLt

/-- `emit E`: append an output event to the trace (R9, R10). -/
def emit (e : Event) (s : State) : State := { s with trace := s.trace ++ [e] }

/-- `return v`: the value an operation gives its caller (R9). -/
def State.returning (r : Result) (s : State) : State := { s with result := r }

/-- The level `ARB.UPDATE` computes for the primary line (R120): non-zero only where the disabled branch is enabled, the
front entry is a primary one, and the keyboard-clock-high bit of `portB` is set. -/
def kbdLevel (s : State) : Nat :=
  if s.len ≠ 0 ∧ (slot s.buf s.rp).aux = 0 ∧ s.cfg.arbLive = true ∧ clkhBit s.portB = true then 1 else 0

/-- The level `ARB.UPDATE` computes for the auxiliary line (R120): the branch never asserts. -/
def auxLevel (_ : State) : Nat := 0

/-- `ARB.UPDATE()` (R120): both levels are written on every accepted enqueue, primary line first (D12, log 11). -/
def arbUpdate (s : State) : State :=
  emit (.irqSet .aux (auxLevel s)) (emit (.irqSet .kbd (kbdLevel s)) s)

/-- The line an entry's auxiliary flag names: non-zero the auxiliary line, zero the primary line (R121). -/
def lineOf (aux : Byte) : Line := if aux = 0 then .kbd else .aux

/-- `ARB.DEASSERT(a)` (R121): exactly one level-0 call. -/
def arbDeassert (aux : Byte) (s : State) : State := emit (.irqSet (lineOf aux) 0) s

/-- `Q.WRITE(d, a)` (R111): dropped without a trace when full, else stored and the arbiter notified. -/
def qWrite (d a : Byte) (s : State) : State :=
  if s.len = cap then s
  else arbUpdate { s with buf := setSlot s.buf s.wp ⟨d, a⟩, wp := nextSlot s.wp, len := s.len + 1 }

/-- `Q.READ()` (R112): the byte, and the state after. On an empty queue the fallback byte and no change. -/
def qRead (s : State) : Byte × State :=
  if s.len = 0 then ((slot s.buf (prevSlot s.rp)).data, s)
  else ((slot s.buf s.rp).data,
        arbDeassert (slot s.buf s.rp).aux { s with rp := nextSlot s.rp, len := s.len - 1 })

/-- `Q.RESET()` (R113): cursors and length zeroed, buffer contents retained, no event. -/
def qReset (s : State) : State := { s with rp := 0, wp := 0, len := 0 }

/-- The device's report that both collaborators are bound (R151). -/
def State.ready (s : State) : Bool := s.boundTimer && s.boundIrq

/-- The precondition of every bus and input operation: `ready = true`, else the operation has no defined meaning and the
model refuses it (R152, D19; log 12). -/
def whenReady (s t : State) : Host.Outcome State Fault Refusal :=
  if s.ready then .next t else .refused .unwired

/-- A collaborator object offered by the assembly routine (R151); `none` is an object of any other kind, which is
ignored. -/
def offer (k : Option Collaborator) (s : State) : State :=
  match k with
  | some .timer => { s with boundTimer := true }
  | some .irq   => { s with boundIrq := true }
  | none        => s

/-- The input agent makes its remaining pushes one by one, each a `Q.WRITE` of its own. Before each, the schedule says
whether it goes on or another agent's operation comes first; in that case the rest stays pending (R51, R180; log 2). -/
def drain : List Entry → State → State
  | [], s => { s with pending := [] }
  | e :: es, s =>
    if s.schedule.head? = some true then { s with pending := e :: es }
    else drain es (qWrite e.data e.aux { s with schedule := s.schedule.tail })

/-- An operation of the input agent: its pushes follow those still pending (one agent's operations take effect in the
order it invokes them, R50 (b)); the first is made at once, the rest as the schedule says. -/
def pushAll (es : List Entry) (s : State) : State :=
  match s.pending ++ es with
  | []      => s
  | e :: es => drain es (qWrite e.data e.aux { s with pending := [] })

/-- The input agent goes on with a key event that another agent's operation had interrupted: the choice at this point is
used up and the next push is made (R51). -/
def resumeInput (s : State) : State :=
  State.returning .none (pushAll [] { s with schedule := s.schedule.tail })

/-- The persisted record of a state (R153): raw arrays, all 256 slots, data before auxiliary. -/
def recordOf (s : State) : Record where
  capacity := cap
  data := ⟨⟨s.buf.toList.map Entry.data⟩, by simp⟩
  aux := ⟨⟨s.buf.toList.map Entry.aux⟩, by simp⟩
  readPosition := s.rp.toNat
  writePosition := s.wp.toNat
  length := s.len

end Sys2Proof.Machine
end

