-- ==== Sys2Proof/Machine/Platform.lean ====
section
/-! DEFINITION. The host's operations: wiring and the persisted record (spec/60_exceptions.md R151, R153), construction
(spec/70_reset_and_hazards.md R165) and the optional loading of a record (R153 (f)). None needs `ready` (R152). -/

namespace Sys2Proof.Machine

/-- `BIND k` (R151): the offered collaborator is bound; no event, no register or queue state touched. -/
def execBind (k : Collaborator) (s : State) : Host.Outcome State Fault Refusal :=
  .next ((offer (some k) s).returning .none)

/-- `SNAPSHOT` (R153): the record is returned; no state changes. -/
def execSnapshot (s : State) : Host.Outcome State Fault Refusal :=
  .next (s.returning (.record (recordOf s)))

/-- `CONSTRUCT` (R165): refused outside the range of R165 (c) or where the parameters break R19 or R41 (log 20). It has
no stimulus word (R73). -/
def construct (c : Config) : Host.Outcome State Fault Refusal :=
  if c.wf then .next (State.ofConfig c) else .refused .badConfig

/-- A record whose capacity is 256, whose positions and length are in range (R24, R25) and that keeps R28. -/
def Record.wf (r : Record) : Bool :=
  decide (r.capacity = cap) && decide (r.readPosition < 256) && decide (r.writePosition < 256) &&
  decide (r.length ≤ cap) && decide (r.writePosition = (r.readPosition + r.length) % 256)

/-- The buffer a record describes. -/
def Record.entries (r : Record) : Vector Entry 256 :=
  ⟨⟨List.zipWith Entry.mk r.data.toList r.aux.toList⟩, by simp⟩

/-- Loading a record (R153 (f)): sets the buffer, the cursors and the length, leaves every register, emits nothing, and
refuses a record that breaks the queue's equations. Optional in the spec and offered here (log 18). -/
def loadRecord (r : Record) (s : State) : Host.Outcome State Fault Refusal :=
  if r.wf then
    .next ({ s with
      buf := r.entries
      rp := BitVec.ofNat 8 r.readPosition
      wp := BitVec.ofNat 8 r.writePosition
      len := r.length }.returning .none)
  else .refused .badRecord

end Sys2Proof.Machine
end

