-- ==== Sys2Proof/WellFormed.lean ====
section
/-! DEFINITION. Which terms of `Instr` stand for a stimulus word (spec/30_encoding.md R71, R73, R75). Two checks: a
wide access names `OTHER(k)` only with `4 ≤ k`; a plain `KEYDOWN` does not carry the sentinel, whose word is the pause
row's (R75: "the pause row is inside the `KEYDOWN` row and is taken first"). -/

namespace Sys2Proof

/-- A port select as the notation of R71 admits it: `OTHER(k)` with `4 ≤ k ≤ 15`. -/
def Port.wellFormed : Port → Bool
  | .a | .b | .c | .cmd => true
  | .other k => decide (4 ≤ k.toNat)

/-- Well-formedness at a given `PAUSE_CODE`. -/
def Instr.wellFormed (pause : Byte) : Instr → Bool
  | .rd8A | .rd8B | .rd8C | .rd8Cmd | .rd8OtherLow _ | .rd8OtherHigh _ => true
  | .wr8A _ | .wr8B _ | .modeset _ | .bitset _ _ | .bitclr _ _ | .wr8C _ => true
  | .wr8OtherLow _ _ | .wr8OtherHigh _ _ => true
  | .rd16 p | .wr16 p _ | .rd32 p | .wr32 p _ => p.wellFormed
  | .keydown c => decide (c ≠ pause)
  | .keydownPause | .keyup _ | .qpush _ _ | .bind _ | .snapshot => true

end Sys2Proof
end

