-- ==== Sys2Proof/Decode.lean ====
section
/-! DEFINITION. The decoder of stimulus words, total on all 65536 words and rejecting by name, and the encoder (spec/30_encoding.md
R61, R62, R67, R73, R75; spec/40_register_file.md R80, R88). `decodeTableWord` is the host's question about one row of
spec/opcode_table.json. The block itself never sees a stimulus word (R73); what it decodes of it is the low byte. -/

namespace Sys2Proof

/-- `OP = w[15:12]` (R73). -/
def opField (w : StimWord) : BitVec 4 := w.extractLsb' 12 4

/-- `SEL = w[11:8]` (R73). -/
def selField (w : StimWord) : BitVec 4 := w.extractLsb' 8 4

/-- `DATA = w[7:0]` (R73). -/
def dataField (w : StimWord) : Byte := w.extractLsb' 0 8

/-- Port select: 0x0 = `A`, 0x1 = `B`, 0x2 = `C`, 0x3 = `CMD`, 0x4 to 0xF = `OTHER(k)` (R73). -/
def portOfSel (sel : BitVec 4) : Port :=
  if sel = 0 then .a else if sel = 1 then .b else if sel = 2 then .c else if sel = 3 then .cmd else .other sel

/-- The select field of a port (R73). -/
def selOfPort : Port → BitVec 4
  | .a => 0 | .b => 1 | .c => 2 | .cmd => 3 | .other k => k

/-- A byte read at a port is `RD8.<select>` (R80). -/
def byteRead : Port → Instr
  | .a => .rd8A
  | .b => .rd8B
  | .c => .rd8C
  | .cmd => .rd8Cmd
  | .other k => if k[3] then .rd8OtherHigh (k.extractLsb' 0 3) else .rd8OtherLow (k.extractLsb' 0 2)

/-- The command byte dispatch of R88: bit 7 set is `MODESET`; bit 7 clear is `BITSET` or `BITCLR` by bit 0. -/
def commandInstr (v : Byte) : Instr :=
  if v[7] then .modeset (v.extractLsb' 0 7)
  else if v[0] then .bitset (v.extractLsb' 4 3) (v.extractLsb' 1 3)
  else .bitclr (v.extractLsb' 4 3) (v.extractLsb' 1 3)

/-- A byte write of `v` at a port is `WR8.<select>` (R80), the command port's by R88. -/
def byteWrite (v : Byte) : Port → Instr
  | .a => .wr8A v
  | .b => .wr8B v
  | .c => .wr8C v
  | .cmd => commandInstr v
  | .other k => if k[3] then .wr8OtherHigh (k.extractLsb' 0 3) v else .wr8OtherLow (k.extractLsb' 0 2) v

/-- A field that "must be" zero (R73). -/
def mustBeZero {n : Nat} (why : NotStimulus) (f : BitVec n) (i : Instr) : Except NotStimulus Instr :=
  if f = 0 then .ok i else .error why

/-- `BIND`'s `SEL`: 0x0 timer, 0x1 interrupt controller, others not a stimulus (R73). -/
def bindOfSel (sel : BitVec 4) (data : Byte) : Except NotStimulus Instr :=
  if sel = 0 then mustBeZero .badData data (.bind .timer)
  else if sel = 1 then mustBeZero .badData data (.bind .irq)
  else .error .badSel

/-- A key press: the pause row is taken first (R75). -/
def pressInstr (pause c : Byte) : Instr := if c = pause then .keydownPause else .keydown c

/-- The decoder by fields (R73): `OP` chooses the operation, `SEL` and `DATA` are its operands. -/
def decodeFields (pause : Byte) (op sel : BitVec 4) (data : Byte) : Except NotStimulus Instr :=
  match op.toNat with
  | 0x0 => mustBeZero .badData data (byteRead (portOfSel sel))
  | 0x1 => .ok (byteWrite data (portOfSel sel))
  | 0x2 => mustBeZero .badData data (.rd16 (portOfSel sel))
  | 0x3 => .ok (.wr16 (portOfSel sel) data)
  | 0x4 => mustBeZero .badData data (.rd32 (portOfSel sel))
  | 0x5 => .ok (.wr32 (portOfSel sel) data)
  | 0x6 => mustBeZero .badSel sel (pressInstr pause data)
  | 0x7 => mustBeZero .badSel sel (.keyup data)
  | 0x8 => .ok (.qpush sel data)
  | 0x9 => bindOfSel sel data
  | 0xA => if sel = 0 then mustBeZero .badData data .snapshot else .error .badSel
  | _   => .error .reservedOp

/-- The decoder of a stimulus word at a given `PAUSE_CODE`, rejecting by name. -/
def decode (pause : Byte) (w : StimWord) : Except NotStimulus Instr :=
  decodeFields pause (opField w) (selField w) (dataField w)

/-- The decoder as a partial answer. -/
def decodeWord (pause : Byte) (w : StimWord) : Option Instr := (decode pause w).toOption

/-- The host's question: the operation the decoder reads from a table row's word. Every row is one word of 16 bits; the
`PAUSE_CODE` is the one of `Config.default`, the value at which the table writes its parametric row (R75, log 3). -/
def decodeTableWord (nbits w : Nat) : Option Instr :=
  decodeWord Config.default.pauseCode (BitVec.ofNat 16 (w % 2 ^ nbits))

/-- A word from its three fields (R73). -/
def wordOf (op sel : BitVec 4) (data : Byte) : StimWord := (op ++ sel) ++ data

/-- The command byte `1aapbgql` (R61). -/
def modeByte (f : BitVec 7) : Byte := (1#1) ++ f

/-- The command byte `0xxxnnnS` (R62). -/
def bsrByte (x n : BitVec 3) (s : BitVec 1) : Byte := (((0#1) ++ x) ++ n) ++ s

/-- The encoder, from the patterns of R75. -/
def encode (pause : Byte) : Instr → StimWord
  | .rd8A             => wordOf 0x0 0x0 0
  | .rd8B             => wordOf 0x0 0x1 0
  | .rd8C             => wordOf 0x0 0x2 0
  | .rd8Cmd           => wordOf 0x0 0x3 0
  | .rd8OtherLow s    => wordOf 0x0 ((1#2) ++ s) 0
  | .rd8OtherHigh s   => wordOf 0x0 ((1#1) ++ s) 0
  | .wr8A v           => wordOf 0x1 0x0 v
  | .wr8B v           => wordOf 0x1 0x1 v
  | .modeset f        => wordOf 0x1 0x3 (modeByte f)
  | .bitset x n       => wordOf 0x1 0x3 (bsrByte x n 1)
  | .bitclr x n       => wordOf 0x1 0x3 (bsrByte x n 0)
  | .wr8C v           => wordOf 0x1 0x2 v
  | .wr8OtherLow s v  => wordOf 0x1 ((1#2) ++ s) v
  | .wr8OtherHigh s v => wordOf 0x1 ((1#1) ++ s) v
  | .rd16 p           => wordOf 0x2 (selOfPort p) 0
  | .wr16 p v         => wordOf 0x3 (selOfPort p) v
  | .rd32 p           => wordOf 0x4 (selOfPort p) 0
  | .wr32 p v         => wordOf 0x5 (selOfPort p) v
  | .keydown c        => wordOf 0x6 0x0 c
  | .keydownPause     => wordOf 0x6 0x0 pause
  | .keyup c          => wordOf 0x7 0x0 c
  | .qpush a d        => wordOf 0x8 a d
  | .bind .timer      => wordOf 0x9 0x0 0
  | .bind .irq        => wordOf 0x9 0x1 0
  | .snapshot         => wordOf 0xA 0x0 0

/-- The match and mask of the table row an operation belongs to (R75); the pause row's match is computed from
`PAUSE_CODE`, as the table's note asks. -/
def tableRow (pause : Byte) : Instr → StimWord × StimWord
  | .rd8A             => (0x0000, 0xFFFF)
  | .rd8B             => (0x0100, 0xFFFF)
  | .rd8C             => (0x0200, 0xFFFF)
  | .rd8Cmd           => (0x0300, 0xFFFF)
  | .rd8OtherLow _    => (0x0400, 0xFCFF)
  | .rd8OtherHigh _   => (0x0800, 0xF8FF)
  | .wr8A _           => (0x1000, 0xFF00)
  | .wr8B _           => (0x1100, 0xFF00)
  | .modeset _        => (0x1380, 0xFF80)
  | .bitset _ _       => (0x1301, 0xFF81)
  | .bitclr _ _       => (0x1300, 0xFF81)
  | .wr8C _           => (0x1200, 0xFF00)
  | .wr8OtherLow _ _  => (0x1400, 0xFC00)
  | .wr8OtherHigh _ _ => (0x1800, 0xF800)
  | .rd16 _           => (0x2000, 0xF0FF)
  | .wr16 _ _         => (0x3000, 0xF000)
  | .rd32 _           => (0x4000, 0xF0FF)
  | .wr32 _ _         => (0x5000, 0xF000)
  | .keydown _        => (0x6000, 0xFF00)
  | .keydownPause     => (0x6000 ||| pause.setWidth 16, 0xFFFF)
  | .keyup _          => (0x7000, 0xFF00)
  | .qpush _ _        => (0x8000, 0xF000)
  | .bind _           => (0x9000, 0xFEFF)
  | .snapshot         => (0xA000, 0xFFFF)

end Sys2Proof
end

