-- ==== Sys2Proof/Machine/RegisterFile.lean ====
section
/-! DEFINITION. The bus operations of the Register File (spec/40_register_file.md R81 to R97). Each needs both
collaborators bound (R80, R152). -/

namespace Sys2Proof.Machine

/-- The data port's byte and the state after (R81): with the stored bit 7 set the configuration byte and no change, else
`Q.READ` into `portA[1]`. -/
def readDataPort (s : State) : Byte × State :=
  if clrBit s.portB then (s.portA0, s)
  else ((qRead s).1, { (qRead s).2 with portA1 := (qRead s).1 })

/-- `RD8.A` (R81). -/
def execRd8A (s : State) : Host.Outcome State Fault Refusal :=
  whenReady s ((readDataPort s).2.returning (.byte (readDataPort s).1))

/-- `RD8.B` (R82): a pure echo of the control byte. -/
def execRd8B (s : State) : Host.Outcome State Fault Refusal :=
  whenReady s (s.returning (.byte s.portB))

/-- `RD8.C` (R83): the stored bit 2 of the control byte selects the status byte or the RAM-size code. -/
def execRd8C (s : State) : Host.Outcome State Fault Refusal :=
  whenReady s (s.returning (.byte (if bankBit s.portB then s.portC1 else s.portC0)))

/-- `RD8.CMD` (R84): the last mode-set byte. -/
def execRd8Cmd (s : State) : Host.Outcome State Fault Refusal :=
  whenReady s (s.returning (.byte s.mode))

/-- `RD8.OTHER`, `SEL` 4 to 7 (R85). -/
def execRd8OtherLow (_ : BitVec 2) (s : State) : Host.Outcome State Fault Refusal :=
  whenReady s (s.returning (.byte 0))

/-- `RD8.OTHER`, `SEL` 8 to 15 (R85). -/
def execRd8OtherHigh (_ : BitVec 3) (s : State) : Host.Outcome State Fault Refusal :=
  whenReady s (s.returning (.byte 0))

/-- `WR8.A` (R86): nothing. -/
def execWr8A (_ : Byte) (s : State) : Host.Outcome State Fault Refusal :=
  whenReady s (s.returning .none)

/-- The effects of a control-port write in the order of R87 (D11, log 10): store, timer gate, queue reset on bit 7,
self-test byte on bit 6 (with auxiliary flag zero, D10). -/
def writeControl (v : Byte) (s : State) : State :=
  let stored := { s with portB := v }
  let gated := emit (.timerGate gateChannel (gateBit v)) stored
  let cleared := if clrBit v then qReset gated else gated
  if clkhBit v then qWrite selfTestByte 0 cleared else cleared

/-- `WR8.B` (R87). -/
def execWr8B (v : Byte) (s : State) : Host.Outcome State Fault Refusal :=
  whenReady s ((writeControl v s).returning .none)

/-- `MODESET` (R89): the whole command byte, bit 7 set, becomes `mode`; nothing else changes. -/
def execModeset (f : BitVec 7) (s : State) : Host.Outcome State Fault Refusal :=
  whenReady s ({ s with mode := modeByte f }.returning .none)

/-- `BITSET` (R90): bit `n` of `portC[0]` set; the ignored bits `x` play no part, and `mode` is not changed. -/
def execBitset (_ n : BitVec 3) (s : State) : Host.Outcome State Fault Refusal :=
  whenReady s ({ s with portC0 := s.portC0 ||| bitMask n }.returning .none)

/-- `BITCLR` (R91): bit `n` of `portC[0]` cleared. -/
def execBitclr (_ n : BitVec 3) (s : State) : Host.Outcome State Fault Refusal :=
  whenReady s ({ s with portC0 := s.portC0 &&& ~~~(bitMask n) }.returning .none)

/-- `WR8.C` (R92): nothing. -/
def execWr8C (_ : Byte) (s : State) : Host.Outcome State Fault Refusal :=
  whenReady s (s.returning .none)

/-- `WR8.OTHER`, `SEL` 4 to 7 (R93): nothing. -/
def execWr8OtherLow (_ : BitVec 2) (_ : Byte) (s : State) : Host.Outcome State Fault Refusal :=
  whenReady s (s.returning .none)

/-- `WR8.OTHER`, `SEL` 8 to 15 (R93): nothing. -/
def execWr8OtherHigh (_ : BitVec 3) (_ : Byte) (s : State) : Host.Outcome State Fault Refusal :=
  whenReady s (s.returning .none)

/-- `RD16` (R94): a 16-bit zero at every port select, no change. -/
def execRd16 (_ : Port) (s : State) : Host.Outcome State Fault Refusal :=
  whenReady s (s.returning (.half 0))

/-- `WR16` (R96): ignored whole. -/
def execWr16 (_ : Port) (_ : Byte) (s : State) : Host.Outcome State Fault Refusal :=
  whenReady s (s.returning .none)

/-- `RD32` (R95): a 32-bit zero at every port select, no change. -/
def execRd32 (_ : Port) (s : State) : Host.Outcome State Fault Refusal :=
  whenReady s (s.returning (.wide 0))

/-- `WR32` (R97): ignored whole. -/
def execWr32 (_ : Port) (_ : Byte) (s : State) : Host.Outcome State Fault Refusal :=
  whenReady s (s.returning .none)

end Sys2Proof.Machine
end

