-- ==== Sys2Proof/Machine/Translator.lean ====
section
/-! DEFINITION. The operations of the input agent: the Scancode Translator (spec/43_scancode_translator.md R130 to R135)
and the raw push of an outside device (spec/41_event_queue.md R114). -/

namespace Sys2Proof.Machine

/-- `KEYDOWN c` (R130). The sentinel test comes first, so a key code equal to `PAUSE_CODE` has the pause form. -/
def execKeydown (c : Byte) (s : State) : Host.Outcome State Fault Refusal :=
  whenReady s ((pushAll (keyEntries (pressBytes s.cfg.pauseCode c)) s).returning .none)

/-- The pause form of `KEYDOWN` (R132). -/
def execKeydownPause (s : State) : Host.Outcome State Fault Refusal :=
  whenReady s ((pushAll (keyEntries pauseBytes) s).returning .none)

/-- `KEYUP c` (R131). -/
def execKeyup (c : Byte) (s : State) : Host.Outcome State Fault Refusal :=
  whenReady s ((pushAll (keyEntries (releaseBytes c)) s).returning .none)

/-- `writeData(d, a)` called from outside, with any auxiliary byte (R114). -/
def rawPush (d a : Byte) (s : State) : Host.Outcome State Fault Refusal :=
  whenReady s ((pushAll [⟨d, a⟩] s).returning .none)

/-- `QPUSH d, a` (R114): the stimulus word carries an auxiliary byte 0 to 15 (log 15). -/
def execQpush (a : BitVec 4) (d : Byte) (s : State) : Host.Outcome State Fault Refusal :=
  rawPush d (a.setWidth 8) s

end Sys2Proof.Machine
end

