-- ==== Sys2Proof/Machine/Dispatch.lean ====
section
/-! DEFINITION. The dispatch: one arm per constructor of `Instr`, each one direct call of its meaning. -/

namespace Sys2Proof.Machine

def exec (i : Instr) (s : State) : Host.Outcome State Fault Refusal :=
  match i with
  | .rd8A => Sys2Proof.Machine.execRd8A s
  | .rd8B => Sys2Proof.Machine.execRd8B s
  | .rd8C => Sys2Proof.Machine.execRd8C s
  | .rd8Cmd => Sys2Proof.Machine.execRd8Cmd s
  | .rd8OtherLow k => Sys2Proof.Machine.execRd8OtherLow k s
  | .rd8OtherHigh k => Sys2Proof.Machine.execRd8OtherHigh k s
  | .wr8A v => Sys2Proof.Machine.execWr8A v s
  | .wr8B v => Sys2Proof.Machine.execWr8B v s
  | .modeset f => Sys2Proof.Machine.execModeset f s
  | .bitset x n => Sys2Proof.Machine.execBitset x n s
  | .bitclr x n => Sys2Proof.Machine.execBitclr x n s
  | .wr8C v => Sys2Proof.Machine.execWr8C v s
  | .wr8OtherLow k v => Sys2Proof.Machine.execWr8OtherLow k v s
  | .wr8OtherHigh k v => Sys2Proof.Machine.execWr8OtherHigh k v s
  | .rd16 p => Sys2Proof.Machine.execRd16 p s
  | .wr16 p v => Sys2Proof.Machine.execWr16 p v s
  | .rd32 p => Sys2Proof.Machine.execRd32 p s
  | .wr32 p v => Sys2Proof.Machine.execWr32 p v s
  | .keydown c => Sys2Proof.Machine.execKeydown c s
  | .keydownPause => Sys2Proof.Machine.execKeydownPause s
  | .keyup c => Sys2Proof.Machine.execKeyup c s
  | .qpush a d => Sys2Proof.Machine.execQpush a d s
  | .bind k => Sys2Proof.Machine.execBind k s
  | .snapshot => Sys2Proof.Machine.execSnapshot s

end Sys2Proof.Machine
end

