-- ==== Sys2Proof/Machine/Fetch.lean ====
section
/-! DEFINITION. Which step comes next. The block fetches no instructions (spec/10_state.md R14): outside agents invoke its
operations. The model holds what they have still to invoke as a list of stimulus words (log 1), and lets an operation of
another agent run between two pushes of a key event where the schedule says so (spec/20_memory.md R51; log 2). -/

namespace Sys2Proof.Machine

/-- What the next step does. -/
inductive Turn where
  /-- No operation is invoked: the block does nothing (R14). -/
  | idle
  /-- The operation `i` is invoked on the state `s`. -/
  | run (i : Instr) (s : State)
  /-- The input agent goes on with its key event. -/
  | input
  /-- The next word is not a stimulus (R73). -/
  | reject (why : NotStimulus) (w : StimWord)
deriving DecidableEq, Repr

/-- The agent that invokes an operation (R60, R154). -/
def agentOf : Instr → Agent
  | .rd8A | .rd8B | .rd8C | .rd8Cmd | .rd8OtherLow _ | .rd8OtherHigh _ => .bus
  | .wr8A _ | .wr8B _ | .modeset _ | .bitset _ _ | .bitclr _ _ | .wr8C _ => .bus
  | .wr8OtherLow _ _ | .wr8OtherHigh _ _ | .rd16 _ | .wr16 _ _ | .rd32 _ | .wr32 _ _ => .bus
  | .keydown _ | .keydownPause | .keyup _ | .qpush _ _ => .input
  | .bind _ | .snapshot => .host

/-- The next stimulus, decoded, and the state in which it is no longer waiting. -/
def fetch (s : State) : Turn :=
  match s.stimuli with
  | []      => .idle
  | w :: ws =>
    match decode s.cfg.pauseCode w with
    | .ok i      => .run i { s with stimuli := ws }
    | .error why => .reject why w

/-- The turn while a key event has pushes left (R51): where the schedule gives the point to another agent and the next
stimulus is not the input agent's own (which must wait for its earlier one, R50 (b)), that operation runs; else the
input agent goes on. -/
def interleave (s : State) : Turn :=
  if s.schedule.head? = some true then
    match fetch { s with schedule := s.schedule.tail } with
    | .run i t => if agentOf i = .input then .input else .run i t
    | _        => .input
  else .input

/-- Which step comes next. -/
def turn (s : State) : Turn := if s.pending = [] then fetch s else interleave s

/-- What a turn does. An idle turn is a step on which no operation is invoked. -/
def takeTurn (s : State) : Turn → Host.Outcome State Fault Refusal
  | .idle         => .next s
  | .run i t      => exec i t
  | .input        => whenReady s (resumeInput s)
  | .reject why w => .refused (.notAStimulus why w)

/-- A state whose collaborators are bound: after `BIND TIMER` and `BIND IRQ` (R151, R169). -/
def State.wired (s : State) : State := offer (some .irq) (offer (some .timer) s)

/-- Whether a word stands for an operation that needs both collaborators bound (R152). -/
def needsWiring (pause : Byte) (w : StimWord) : Bool :=
  match decodeWord pause w with
  | some i => agentOf i ≠ .host
  | none   => false

/-- A state whose very next step runs the word `w`: no key event is half done, the word is the next stimulus, and, where
its operation needs the block wired (R152), both collaborators are bound, as they are before any such operation can run
(R169; log 1). -/
def stage (w : StimWord) (s : State) : State :=
  let base := if needsWiring s.cfg.pauseCode w then s.wired else s
  { base with pending := [], stimuli := w :: s.stimuli }

end Sys2Proof.Machine
end

