-- ==== Sys2Proof/Machine/Step.lean ====
section
/-! DEFINITION. One step of the machine, and the host's way of placing one instruction. -/

namespace Sys2Proof.Machine

/-- One step: the turn that comes next (Machine/Fetch.lean). -/
def step (s : State) : Host.Outcome State Fault Refusal := takeTurn s (turn s)

/-- The state `s` with the instruction whose word is `w` placed so that the very next step runs it. -/
def State.withFetchWord (s : State) (nbits w : Nat) : State :=
  stage (BitVec.ofNat 16 (w % 2 ^ nbits)) s

end Sys2Proof.Machine
end

