-- ==== Sys2Proof/Machine/Bus.lean ====
section
/-! DEFINITION. How a bus access becomes an operation (spec/20_memory.md R41, R56; spec/40_register_file.md R80): the width
is looked at first, then the port select of the address. -/

namespace Sys2Proof.Machine

/-- The port select of an access at bus address `a` (R41). Every other address that the platform routes to the block is
`OTHER`; all `OTHER(k)` behave alike, and `OTHER(4)` stands for them (log 24). -/
def selectOf (c : Config) (a : Nat) : Port :=
  if a = c.portAAddr then .a
  else if a = c.portBAddr then .b
  else if a = c.portCAddr then .c
  else if a = c.portCmdAddr then .cmd
  else .other 4

/-- `MemRead(a, n)` is `RD8`, `RD16` or `RD32` at the select of `a` (R56). -/
def readOp (c : Config) (a n : Nat) : Option Instr :=
  match n with
  | 1 => some (byteRead (selectOf c a))
  | 2 => some (.rd16 (selectOf c a))
  | 4 => some (.rd32 (selectOf c a))
  | _ => none

/-- `MemWrite(a, n, v)` is `WR8`, `WR16` or `WR32` at the select of `a` (R56); of a wide value only the low byte is kept,
the rest being ignored anyway (R71). -/
def writeOp (c : Config) (a n v : Nat) : Option Instr :=
  match n with
  | 1 => some (byteWrite (BitVec.ofNat 8 v) (selectOf c a))
  | 2 => some (.wr16 (selectOf c a) (BitVec.ofNat 8 v))
  | 4 => some (.wr32 (selectOf c a) (BitVec.ofNat 8 v))
  | _ => none

/-- The operation a width names, or the refusal of a width that reaches no operation (R56, U19). -/
def accessOp (n : Nat) (op : Option Instr) (s : State) : Host.Outcome State Fault Refusal :=
  match op with
  | some i => exec i s
  | none   => .refused (.badWidth n)

/-- A bus read of `n` bytes at address `a` (R56). -/
def busRead (a n : Nat) (s : State) : Host.Outcome State Fault Refusal :=
  accessOp n (readOp s.cfg a n) s

/-- A bus write of `n` bytes at address `a` (R56). -/
def busWrite (a n v : Nat) (s : State) : Host.Outcome State Fault Refusal :=
  accessOp n (writeOp s.cfg a n v) s

end Sys2Proof.Machine
end

