-- ==== Sys2Proof/Safety.lean ====
section
/-! DEFINITION. What claims about the block are stated in: the invariant of the queue and the registers
(spec/10_state.md R16, R19, R21, R27, R28), the silence of the interrupt lines (spec/42_interrupt_arbiter.md R123), the
queue as a list (spec/41_event_queue.md R110), and the states that have no key event half done. -/

namespace Sys2Proof.Machine

/-- R25, R27 and R28: the occupancy is at most 256 and `wp = (rp + len) mod 256`. -/
def QueueInv (s : State) : Prop := s.len ≤ cap ∧ s.wp.toNat = (s.rp.toNat + s.len) % 256

/-- R16 and R19: `portA[0]` and `portC[1]` are constants of the device. -/
def ConstInv (s : State) : Prop := s.portA0 = s.cfg.cfgA ∧ s.portC1 = s.cfg.ramCode

/-- R21: `mode` is the reset value or a byte with bit 7 set. -/
def ModeInv (s : State) : Prop := s.mode = s.cfg.modeReset ∨ s.mode[7] = true

/-- The invariant of the machine. -/
def BlockInv (s : State) : Prop := QueueInv s ∧ ConstInv s ∧ ModeInv s

/-- An event that asserts no line: a timer-gate call, or a level-0 line call (R123). -/
def Event.silent : Event → Prop
  | .timerGate _ _   => True
  | .irqSet _ level  => level = 0

/-- No line has been asserted (R176). -/
def NoLineAsserted (s : State) : Prop := ∀ e ∈ s.trace, e.silent

/-- Every entry, in the buffer or still to be pushed, is a keyboard entry (R114, R133). -/
def AllPrimary (s : State) : Prop :=
  (∀ k : Byte, (slot s.buf k).aux = 0) ∧ ∀ e ∈ s.pending, e.aux = 0

/-- The live entries, oldest first: slots `rp`, `rp + 1`, …, `rp + len - 1` modulo 256 (R24, R28, R110). -/
def queueContents (s : State) : List Entry :=
  (List.range s.len).map fun k => slot s.buf (s.rp + BitVec.ofNat 8 k)

/-- No key event is half done and the schedule interrupts none (R51; log 2). -/
def Undisturbed (s : State) : Prop := s.pending = [] ∧ s.schedule = []

/-- The entries pushed one after the other, each by its own `Q.WRITE` (R130 (c), R132). -/
def pushEach (es : List Entry) (s : State) : State := es.foldl (fun t e => qWrite e.data e.aux t) s

/-- The pushes each operation of the input agent makes (R114, R130, R131, R132); other operations make none. -/
def pushesOf (pause : Byte) : Instr → List Entry
  | .keydown c    => keyEntries (pressBytes pause c)
  | .keydownPause => keyEntries pauseBytes
  | .keyup c      => keyEntries (releaseBytes c)
  | .qpush a d    => [⟨d, a.setWidth 8⟩]
  | .rd8A | .rd8B | .rd8C | .rd8Cmd | .rd8OtherLow _ | .rd8OtherHigh _ => []
  | .wr8A _ | .wr8B _ | .modeset _ | .bitset _ _ | .bitclr _ _ | .wr8C _ => []
  | .wr8OtherLow _ _ | .wr8OtherHigh _ _ | .rd16 _ | .wr16 _ _ | .rd32 _ | .wr32 _ _ => []
  | .bind _ | .snapshot => []

/-- The next stimulus is an operation of the bus agent or of the host (R51, R154). -/
def OtherAgentWaits (s : State) : Prop :=
  ∃ w ws i, s.stimuli = w :: ws ∧ decode s.cfg.pauseCode w = .ok i ∧ agentOf i ≠ .input

end Sys2Proof.Machine
end

