-- ==== Sys2Proof/Certificates/Slice0/Obligations.lean ====
section
/-! DEFINITION. The statements for the provers. `Rn` is a numbered rule of spec/, `Dn` a decision of
spec/92_eei_decisions.md, "log n" the file notes/assumptions/n.md. A state carries its configuration, so every statement
holds for every value of the parameters of R7. -/

open Sys2Proof Sys2Proof.Machine

/-! ### Encodings -/

/-- R73, R75: decoding the word of a well-formed operation gives it back, every operand at every value. The stimulus word
is the spec's own framing (D20). -/
def Obligations.DecodeInvertsEncode : Prop :=
  ∀ (pause : Byte) (i : Instr), i.wellFormed pause = true → decode pause (encode pause i) = .ok i

/-- R73, R75: a word that decodes is the word of a well-formed operation, and no bit of it is dropped (D20). -/
def Obligations.EncodeInvertsDecode : Prop :=
  ∀ (pause : Byte) (w : StimWord) (i : Instr),
    decode pause w = .ok i → encode pause i = w ∧ i.wellFormed pause = true

/-- R73: the words that are not a stimulus are exactly those that break a "must be" or whose `OP` is 0xB to 0xF (D20). -/
def Obligations.RefusedWordsAreThoseOfFormatS : Prop :=
  ∀ (pause : Byte) (w : StimWord),
    (∃ why, decode pause w = .error why) ↔
      let op := (w.extractLsb' 12 4).toNat
      let sel := (w.extractLsb' 8 4).toNat
      let data := (w.extractLsb' 0 8).toNat
      11 ≤ op ∨ ((op = 0 ∨ op = 2 ∨ op = 4) ∧ data ≠ 0) ∨ ((op = 6 ∨ op = 7) ∧ sel ≠ 0) ∨
        (op = 9 ∧ (2 ≤ sel ∨ data ≠ 0)) ∨ (op = 10 ∧ (sel ≠ 0 ∨ data ≠ 0))

/-- R75: a word that decodes to an operation matches the mask and match of that operation's row (D20). -/
def Obligations.DecodedWordLiesInItsRow : Prop :=
  ∀ (pause : Byte) (w : StimWord) (i : Instr),
    decode pause w = .ok i → w &&& (tableRow pause i).2 = (tableRow pause i).1

/-- R75: a word that matches a row decodes to an operation of that row; the pause row is taken before the `KEYDOWN` row
(D20). -/
def Obligations.WordInARowDecodesToThatRow : Prop :=
  ∀ (pause : Byte) (w : StimWord) (j : Instr),
    w &&& (tableRow pause j).2 = (tableRow pause j).1 →
    (∀ c, j = .keydown c → w.extractLsb' 0 8 ≠ pause) →
    ∃ i, decode pause w = .ok i ∧ tableRow pause i = tableRow pause j

/-- R74: the worked encodings that need no sentinel decode to the operations they are written for. -/
def Obligations.WorkedEncodingsDecode : Prop :=
  ∀ pause : Byte,
    decode pause 0x0000 = .ok .rd8A ∧ decode pause 0x0200 = .ok .rd8C ∧ decode pause 0x114C = .ok (.wr8B 0x4C) ∧
    decode pause 0x1399 = .ok (.modeset 0x19) ∧ decode pause 0x130F = .ok (.bitset 0 7) ∧
    decode pause 0x1302 = .ok (.bitclr 0 1) ∧ decode pause 0x2000 = .ok (.rd16 .a) ∧
    decode pause 0x5101 = .ok (.wr32 .b 0x01) ∧ decode pause 0x70C8 = .ok (.keyup 0xC8) ∧
    decode pause 0x8155 = .ok (.qpush 1 0x55) ∧ decode pause 0x9000 = .ok (.bind .timer) ∧
    decode pause 0x9100 = .ok (.bind .irq) ∧ decode pause 0xA000 = .ok .snapshot ∧
    decode pause 0x0400 = .ok (.rd8OtherLow 0)

/-! ### The step -/

/-- Log 1: with no key event half done, a step runs the operation that the next stimulus word decodes to, on the state in
which that word is no longer waiting. -/
def Obligations.StepRunsTheDecodedOperation : Prop :=
  ∀ (s : State) (w : StimWord) (ws : List StimWord) (i : Instr),
    s.pending = [] → s.stimuli = w :: ws → decode s.cfg.pauseCode w = .ok i →
    step s = exec i { s with stimuli := ws }

/-- R14 and R73, log 1: with nothing to invoke a step changes nothing; a word that is not a stimulus is refused by
name. -/
def Obligations.StepWithNothingToRun : Prop :=
  ∀ s : State, s.pending = [] →
    (s.stimuli = [] → step s = .next s) ∧
    ∀ w ws why, s.stimuli = w :: ws → decode s.cfg.pauseCode w = .error why →
      step s = .refused (.notAStimulus why w)

/-- R51 (D17), log 2, log 22: between two pushes of a key event, where the schedule gives the point to another agent and
its operation is waiting, that operation runs and the rest of the key event stays pending. -/
def Obligations.StepRunsAnotherAgentBetweenPushes : Prop :=
  ∀ (s : State) (cs : List Bool) (w : StimWord) (ws : List StimWord) (i : Instr),
    s.pending ≠ [] → s.schedule = true :: cs → s.stimuli = w :: ws →
    decode s.cfg.pauseCode w = .ok i → agentOf i ≠ .input →
    step s = exec i { s with stimuli := ws, schedule := cs }

/-- R51 (D17), log 2: else the input agent goes on. It makes at least one push, in order, and stops before its last only
where the schedule gives the point to another agent. -/
def Obligations.StepGoesOnWithTheKeyEvent : Prop :=
  ∀ s : State, s.ready = true → s.pending ≠ [] →
    (s.schedule.head? ≠ some true ∨ ¬ OtherAgentWaits s) →
    ∃ k, 1 ≤ k ∧ k ≤ s.pending.length ∧
      step s = .next { pushEach (s.pending.take k) s with
        pending := s.pending.drop k, schedule := s.schedule.drop k, result := .none } ∧
      (k < s.pending.length → s.schedule[k]? = some true) ∧
      ∀ j, 1 ≤ j → j < k → s.schedule[j]? ≠ some true

/-- Log 1: the state in which one instruction is placed runs exactly it at the next step. -/
def Obligations.PlacedWordRunsNext : Prop :=
  ∀ (s : State) (w : Nat) (i : Instr), w < 2 ^ 16 → decode s.cfg.pauseCode (BitVec.ofNat 16 w) = .ok i →
    step (s.withFetchWord 16 w) = exec i { (if agentOf i = .host then s else s.wired) with pending := [] }

/-! ### Completion and the wiring precondition -/

/-- R98, R11: with both collaborators bound every operation completes, whatever its operands and the state. -/
def Obligations.EveryOperationCompletesWhenWired : Prop :=
  ∀ (i : Instr) (s : State), s.ready = true → ∃ t, exec i s = .next t ∧ t.ready = true ∧ t.cfg = s.cfg

/-- R152 (D19, log 12): before the block is wired its bus and input operations are refused by name, and the host's
operations complete. -/
def Obligations.UnwiredOperationsAreRefused : Prop :=
  ∀ (i : Instr) (s : State), s.ready = false →
    (agentOf i ≠ .host → exec i s = .refused .unwired) ∧ (agentOf i = .host → ∃ t, exec i s = .next t)

/-! ### Register File: reads -/

/-- R82: a read of the control port returns the control byte as last written, all eight bits, and changes nothing. -/
def Obligations.ControlPortReadEchoes : Prop :=
  ∀ (pause : Byte) (s : State), s.ready = true →
    decode pause 0x0100 = .ok .rd8B ∧ exec .rd8B s = .next { s with result := .byte s.portB } ∧
    (∀ v t, exec (.wr8B v) s = .next t → t.ready = true ∧ exec .rd8B t = .next { t with result := .byte v }) ∧
    ∀ c : Config, (State.ofConfig c).portB = c.portBReset

/-- R83: a read of the status port returns the status byte or the RAM-size code, whole, as bit 2 of the control byte
says, whatever `mode` holds, and changes nothing. -/
def Obligations.StatusPortReadSelectsByBankBit : Prop :=
  ∀ (pause : Byte) (s : State), s.ready = true →
    decode pause 0x0200 = .ok .rd8C ∧
    (s.portB[2] = false → exec .rd8C s = .next { s with result := .byte s.portC0 }) ∧
    (s.portB[2] = true → exec .rd8C s = .next { s with result := .byte s.portC1 })

/-- R84: a read of the command port returns `mode`, which only a mode-set write changes, and which then is exactly the
byte written. That `BITSET` and `BITCLR` leave `mode` alone is the spec's decision D13 (R21, log 17). -/
def Obligations.CommandPortReadReturnsLastModeByte : Prop :=
  (∀ pause : Byte, decode pause 0x0300 = .ok .rd8Cmd) ∧
  (∀ c : Config, (State.ofConfig c).mode = c.modeReset) ∧
  (∀ s : State, s.ready = true → exec .rd8Cmd s = .next { s with result := .byte s.mode }) ∧
  (∀ (i : Instr) (s t : State), (∀ f, i ≠ .modeset f) → exec i s = .next t → t.mode = s.mode) ∧
  ∀ (v : Byte) (s : State), s.ready = true → v[7] = true →
    ∃ t, exec (byteWrite v .cmd) s = .next t ∧ exec .rd8Cmd t = .next { t with result := .byte v }

/-- R85: a byte read of any other address of the block (`SEL` 4 to 15, both rows of the table) returns zero and changes
nothing. -/
def Obligations.OtherAddressReadsZero : Prop :=
  ∀ (k : BitVec 2) (l : BitVec 3) (s : State), s.ready = true →
    (∀ pause, decode pause (wordOf 0x0 (1#2 ++ k) 0x00) = .ok (.rd8OtherLow k) ∧
      decode pause (wordOf 0x0 (1#1 ++ l) 0x00) = .ok (.rd8OtherHigh l)) ∧
    exec (.rd8OtherLow k) s = .next { s with result := .byte 0x00 } ∧
    exec (.rd8OtherHigh l) s = .next { s with result := .byte 0x00 }

/-- R81: a read of the data port. With the stored bit 7 set it returns the configuration byte and changes nothing; with
it clear it returns the fallback byte of an empty queue or dequeues the front entry with one level-0 call, and in both
cases latches the byte. -/
def Obligations.DataPortRead : Prop :=
  ∀ (pause : Byte) (s : State), s.ready = true →
    decode pause 0x0000 = .ok .rd8A ∧
    (s.portB[7] = true → exec .rd8A s = .next { s with result := .byte s.portA0 }) ∧
    (s.portB[7] = false → s.len = 0 →
      exec .rd8A s = .next { s with
        portA1 := (slot s.buf (s.rp - 1)).data, result := .byte (slot s.buf (s.rp - 1)).data }) ∧
    (s.portB[7] = false → s.len ≠ 0 →
      exec .rd8A s = .next { s with
        rp := s.rp + 1, len := s.len - 1, portA1 := (slot s.buf s.rp).data
        trace := s.trace ++ [.irqSet (if (slot s.buf s.rp).aux = 0 then .kbd else .aux) 0]
        result := .byte (slot s.buf s.rp).data })

/-! ### Register File: writes -/

/-- R93, with R86 and R92: byte writes to the data port, the status port and any other address do nothing. -/
def Obligations.IgnoredByteWrites : Prop :=
  ∀ (v : Byte) (k : BitVec 2) (l : BitVec 3) (s : State), s.ready = true →
    exec (.wr8A v) s = .next { s with result := .none } ∧ exec (.wr8C v) s = .next { s with result := .none } ∧
    exec (.wr8OtherLow k v) s = .next { s with result := .none } ∧
    exec (.wr8OtherHigh l v) s = .next { s with result := .none }

/-- R43: a wide read at any address of the block returns zero of its width and changes nothing; a wide write is ignored
whole. -/
def Obligations.WideAccessesReturnOrIgnoreZero : Prop :=
  ∀ (p : Port) (v : Byte) (s : State), s.ready = true →
    exec (.rd16 p) s = .next { s with result := .half 0 } ∧ exec (.rd32 p) s = .next { s with result := .wide 0 } ∧
    exec (.wr16 p v) s = .next { s with result := .none } ∧ exec (.wr32 p v) s = .next { s with result := .none } ∧
    ∀ a n : Nat,
      busRead a 2 s = .next { s with result := .half 0 } ∧ busRead a 4 s = .next { s with result := .wide 0 } ∧
      busWrite a 2 n s = .next { s with result := .none } ∧ busWrite a 4 n s = .next { s with result := .none }

/-- R87: a control-port write stores the byte, forwards bit 0 to the timer, resets the queue on bit 7, then pushes 0xAA
on bit 6 unless the queue is full. The order of the effects (D11), the auxiliary flag of 0xAA (D10, log 10) and the order
of the two line calls (D12, log 11) are the spec's decisions. -/
def Obligations.ControlPortWrite : Prop :=
  ∀ (v : Byte) (s : State), s.ready = true →
    let rp := if v[7] = true then 0 else s.rp
    let wp := if v[7] = true then 0 else s.wp
    let len := if v[7] = true then 0 else s.len
    ((v[6] = false ∨ len = 256) →
      exec (.wr8B v) s = .next { s with
        portB := v, rp := rp, wp := wp, len := len
        trace := s.trace ++ [.timerGate 2 (v[0])], result := .none }) ∧
    ((v[6] = true ∧ len ≠ 256) →
      ∃ level, (s.cfg.arbLive = false → level = 0) ∧
        exec (.wr8B v) s = .next { s with
          portB := v, rp := rp, wp := wp + 1, len := len + 1, buf := setSlot s.buf wp ⟨0xAA, 0x00⟩
          trace := s.trace ++ [.timerGate 2 (v[0]), .irqSet .kbd level, .irqSet .aux 0], result := .none })

/-- R168: the clear-keyboard command is a write with bit 7 set (here without bit 6): the queue is emptied, its slots and
every register but `portB` stay, and only the write's own timer call is made. -/
def Obligations.ClearKeyboardEmptiesOnlyTheQueue : Prop :=
  ∀ (v : Byte) (s : State), s.ready = true → v[7] = true → v[6] = false →
    exec (.wr8B v) s = .next { s with
      portB := v, rp := 0, wp := 0, len := 0, trace := s.trace ++ [.timerGate 2 (v[0])], result := .none }

/-- R89: a command byte with bit 7 set becomes `mode`, whose six views are the byte's fields; nothing else changes, and
writing it twice is the same as once. That the fields are views without storage is the spec's decision D14 (R22), and
that no port is cleared is its answer to a silence of the source (N10); log 33. -/
def Obligations.ModesetStoresTheCommandByte : Prop :=
  ∀ (f : BitVec 7) (s : State), s.ready = true →
    let v : Byte := 1#1 ++ f
    let t : State := { s with mode := v, result := .none }
    (∀ pause, decode pause (wordOf 0x1 0x3 v) = .ok (.modeset f)) ∧ v[7] = true ∧
    exec (.modeset f) s = .next t ∧ exec (.modeset f) t = .next t ∧
    t.groupAMode = v.extractLsb' 5 2 ∧ t.groupBMode = v[2] ∧ t.dirA = v[4] ∧
    t.dirB = v[1] ∧ t.dirCLow = v[0] ∧ t.dirCHigh = v[3]

/-- R90: a command byte with bit 7 clear and bit 0 set sets bit `n = v[3:1]` of `portC[0]` and changes nothing else; bits
6 to 4 are ignored. That `mode` keeps its value is the spec's decision D13 (R21), and that bits 6 to 4 have no effect its
decision D30 (R69); log 17. -/
def Obligations.BitsetSetsOneStatusBit : Prop :=
  ∀ (x n : BitVec 3) (s : State), s.ready = true →
    (∀ pause, decode pause (wordOf 0x1 0x3 (((0#1 ++ x) ++ n) ++ 1#1)) = .ok (.bitset x n)) ∧
    ∃ b : Byte, exec (.bitset x n) s = .next { s with portC0 := b, result := .none } ∧
      ∀ k, k < 8 → b.getLsbD k = (decide (k = n.toNat) || s.portC0.getLsbD k)

/-- R91: a command byte with bits 7 and 0 clear clears bit `n = v[3:1]` of `portC[0]` and changes nothing else; bits 6 to
4 are ignored. That `mode` keeps its value is the spec's decision D13 (R21), and that bits 6 to 4 have no effect its
decision D30 (R69); log 17. -/
def Obligations.BitclrClearsOneStatusBit : Prop :=
  ∀ (x n : BitVec 3) (s : State), s.ready = true →
    (∀ pause, decode pause (wordOf 0x1 0x3 (((0#1 ++ x) ++ n) ++ 0#1)) = .ok (.bitclr x n)) ∧
    ∃ b : Byte, exec (.bitclr x n) s = .next { s with portC0 := b, result := .none } ∧
      ∀ k, k < 8 → b.getLsbD k = (!decide (k = n.toNat) && s.portC0.getLsbD k)

/-- R88: a byte written to the command port selects exactly one of the three command operations, by bit 7 and then bit 0,
with the byte's own fields as operands. -/
def Obligations.CommandByteSelectsExactlyOne : Prop :=
  ∀ v : Byte,
    (v[7] = true → byteWrite v .cmd = .modeset (v.extractLsb' 0 7)) ∧
    (v[7] = false → v[0] = true →
      byteWrite v .cmd = .bitset (v.extractLsb' 4 3) (v.extractLsb' 1 3)) ∧
    (v[7] = false → v[0] = false →
      byteWrite v .cmd = .bitclr (v.extractLsb' 4 3) (v.extractLsb' 1 3))

/-- R41, R56, R80: a port's address selects that port and any other address `OTHER` (log 24); a 1-byte access is the byte
operation, a 2-byte and a 4-byte access the wide operation of the selected port, whether the block is wired or not; a
width other than 1, 2 or 4 is refused by name (log 19). -/
def Obligations.BusAccessReachesTheSelectedPort : Prop :=
  ∀ s : State, s.cfg.wf = true →
    (selectOf s.cfg s.cfg.portAAddr = .a ∧ selectOf s.cfg s.cfg.portBAddr = .b ∧
      selectOf s.cfg s.cfg.portCAddr = .c ∧ selectOf s.cfg s.cfg.portCmdAddr = .cmd) ∧
    (busRead s.cfg.portAAddr 1 s = exec .rd8A s ∧ busRead s.cfg.portBAddr 1 s = exec .rd8B s ∧
     busRead s.cfg.portCAddr 1 s = exec .rd8C s ∧ busRead s.cfg.portCmdAddr 1 s = exec .rd8Cmd s) ∧
    (∀ n : Nat, busWrite s.cfg.portAAddr 1 n s = exec (.wr8A (BitVec.ofNat 8 n)) s ∧
      busWrite s.cfg.portBAddr 1 n s = exec (.wr8B (BitVec.ofNat 8 n)) s ∧
      busWrite s.cfg.portCAddr 1 n s = exec (.wr8C (BitVec.ofNat 8 n)) s ∧
      busWrite s.cfg.portCmdAddr 1 n s = exec (commandInstr (BitVec.ofNat 8 n)) s) ∧
    (∀ a n : Nat, a ∉ [s.cfg.portAAddr, s.cfg.portBAddr, s.cfg.portCAddr, s.cfg.portCmdAddr] →
      selectOf s.cfg a = .other 4 ∧ busRead a 1 s = exec (.rd8OtherLow 0) s ∧
      busWrite a 1 n s = exec (.wr8OtherLow 0 (BitVec.ofNat 8 n)) s) ∧
    (∀ a n : Nat,
      busRead a 2 s = exec (.rd16 (selectOf s.cfg a)) s ∧ busRead a 4 s = exec (.rd32 (selectOf s.cfg a)) s ∧
      busWrite a 2 n s = exec (.wr16 (selectOf s.cfg a) (BitVec.ofNat 8 n)) s ∧
      busWrite a 4 n s = exec (.wr32 (selectOf s.cfg a) (BitVec.ofNat 8 n)) s) ∧
    ∀ a m n : Nat, m ∉ [1, 2, 4] →
      busRead a m s = .refused (.badWidth m) ∧ busWrite a m n s = .refused (.badWidth m)

/-- R99, the frame of the bus operations: which of them may change each element. Of the two operations with more than one
row, a data-port read changes nothing, the latched byte, or that and the front of the queue; a control-port write changes
the cursors and the length as bit 7 says, and, only where bit 6 is set and the queue then has room, one slot. The order of
a control-port write's effects is D11 (log 10), that of its two line calls D12 (log 11); that a single-bit command keeps
`mode` is D13 (log 17). -/
def Obligations.BusOperationFootprint : Prop :=
  ∀ (i : Instr) (s t : State), agentOf i = .bus → exec i s = .next t →
    (t.cfg = s.cfg ∧ t.portA0 = s.portA0 ∧ t.portC1 = s.portC1 ∧ t.boundTimer = s.boundTimer ∧
      t.boundIrq = s.boundIrq ∧ t.stimuli = s.stimuli ∧ t.pending = s.pending ∧ t.schedule = s.schedule) ∧
    ((∀ v, i ≠ .wr8B v) → t.portB = s.portB ∧ t.wp = s.wp ∧ t.buf = s.buf) ∧
    (i ≠ .rd8A → t.portA1 = s.portA1) ∧
    ((∀ x n, i ≠ .bitset x n ∧ i ≠ .bitclr x n) → t.portC0 = s.portC0) ∧
    ((∀ f, i ≠ .modeset f) → t.mode = s.mode) ∧
    ((∀ v, i ≠ .wr8B v) → i ≠ .rd8A → t.rp = s.rp ∧ t.len = s.len ∧ t.trace = s.trace) ∧
    (i = .rd8A →
      (s.portB[7] = true → t = { s with result := t.result }) ∧
      (s.portB[7] = false → s.len = 0 → t = { s with portA1 := t.portA1, result := t.result }) ∧
      (s.portB[7] = false → s.len ≠ 0 → t.rp = s.rp + 1 ∧ t.len = s.len - 1 ∧
        ∃ line, t.trace = s.trace ++ [.irqSet line 0])) ∧
    ∀ v, i = .wr8B v →
      let wp := if v[7] = true then 0 else s.wp
      let len := if v[7] = true then 0 else s.len
      t.portB = v ∧ t.rp = (if v[7] = true then 0 else s.rp) ∧
      ((v[6] = false ∨ len = 256) →
        t.buf = s.buf ∧ t.wp = wp ∧ t.len = len ∧ t.trace = s.trace ++ [.timerGate 2 (v[0])]) ∧
      ((v[6] = true ∧ len ≠ 256) →
        (∀ k : Byte, k ≠ wp → slot t.buf k = slot s.buf k) ∧ t.wp = wp + 1 ∧ t.len = len + 1 ∧
        ∃ kbd aux, t.trace = s.trace ++ [.timerGate 2 (v[0]), .irqSet .kbd kbd, .irqSet .aux aux])

/-- R182, R22: the mode register gates nothing, which is the spec's resolution C5 and decision D14 (log 33). Two states that differ in `mode` alone are taken to two states that differ
in `mode` alone by every operation but the read that returns it and the write that replaces it. -/
def Obligations.ModeRegisterGatesNothing : Prop :=
  ∀ (i : Instr) (s : State) (m : Byte), s.ready = true →
    (i ≠ .rd8Cmd → (∀ f, i ≠ .modeset f) →
      ∃ t, exec i s = .next t ∧ exec i { s with mode := m } = .next { t with mode := m }) ∧
    ∀ f, exec (.modeset f) { s with mode := m } = exec (.modeset f) s

/-- R16, R30 (c): the latched byte `portA[1]` is hidden. No operation's result, events or other effects depend on it. -/
def Obligations.LatchedByteIsHidden : Prop :=
  ∀ (i : Instr) (s t : State) (b : Byte), exec i s = .next t →
    ∃ t', exec i { s with portA1 := b } = .next t' ∧ t'.result = t.result ∧ t'.trace = t.trace ∧
      { t' with portA1 := t.portA1 } = t

/-! ### The queue -/

/-- R27: a write to a full queue is dropped without a trace, so the occupancy never exceeds 256. -/
def Obligations.FullQueueDropsWrites : Prop :=
  ∀ (d a : Byte) (s : State),
    (s.len = 256 → qWrite d a s = s) ∧ (s.len ≤ 256 → (qWrite d a s).len ≤ 256)

/-- R111: an enqueue on a full queue is dropped and changes nothing; an accepted one stores the pair at the write cursor,
advances it, counts the entry and notifies the arbiter with two line calls (their order is D12, log 11), and every other
slot keeps its contents. -/
def Obligations.EnqueueStoresOrDrops : Prop :=
  ∀ (d a : Byte) (s : State), (s.len = 256 → qWrite d a s = s) ∧ (s.len ≠ 256 →
    ∃ level, (s.cfg.arbLive = false → level = 0) ∧
      qWrite d a s = { s with
        buf := setSlot s.buf s.wp ⟨d, a⟩, wp := s.wp + 1, len := s.len + 1
        trace := s.trace ++ [.irqSet .kbd level, .irqSet .aux 0] } ∧
      slot (qWrite d a s).buf s.wp = ⟨d, a⟩ ∧
      ∀ k : Byte, k ≠ s.wp → slot (qWrite d a s).buf k = slot s.buf k)

/-- R112: a dequeue captures the front entry, advances the read cursor and makes one level-0 call; an empty queue gives
the byte before the read cursor and changes nothing; straight after the last entry is dequeued that byte is the one just
read; cursors wrap at 256. -/
def Obligations.DequeueOrFallback : Prop :=
  (∀ s : State, s.len = 0 → qRead s = ((slot s.buf (s.rp - 1)).data, s)) ∧
  (∀ s : State, s.len ≠ 0 →
    qRead s = ((slot s.buf s.rp).data, { s with
      rp := s.rp + 1, len := s.len - 1
      trace := s.trace ++ [.irqSet (if (slot s.buf s.rp).aux = 0 then .kbd else .aux) 0] })) ∧
  (∀ s : State, s.len = 1 → qRead (qRead s).2 = ((qRead s).1, (qRead s).2)) ∧
  ((0 : Byte) - 1 = 255 ∧ (255 : Byte) + 1 = 0)

/-- R112 (b), R115: repeated data-port reads on an empty queue return the same byte and change nothing more. -/
def Obligations.EmptyReadRepeats : Prop :=
  ∀ s : State, s.ready = true → s.len = 0 → s.portB[7] = false →
    ∃ t, exec .rd8A s = .next t ∧ exec .rd8A t = .next t ∧ t.trace = s.trace ∧ t.buf = s.buf ∧ t.rp = s.rp

/-- R113: clearing the queue zeroes the cursors and the length, keeps every slot and every register, emits nothing; the
next empty read returns slot 255. -/
def Obligations.QueueResetKeepsContents : Prop :=
  ∀ s : State, qReset s = { s with rp := 0, wp := 0, len := 0 } ∧
    qRead (qReset s) = ((slot s.buf 255).data, qReset s)

/-- R110: the queue is first in, first out. As a list of live entries, an accepted enqueue appends, a dequeue takes the
head and returns its data byte, and a clear empties it. -/
def Obligations.QueueIsFirstInFirstOut : Prop :=
  ∀ s : State, QueueInv s →
    (queueContents s).length = s.len ∧
    (∀ d a : Byte, queueContents (qWrite d a s) =
      if s.len = 256 then queueContents s else queueContents s ++ [⟨d, a⟩]) ∧
    (s.len ≠ 0 → ∃ a, queueContents s = ⟨(qRead s).1, a⟩ :: queueContents (qRead s).2) ∧
    queueContents (qReset s) = []

/-- R46, R110: each data-port read with bit 7 clear delivers and removes the oldest live entry. -/
def Obligations.DataPortReadsDeliverTheQueueInOrder : Prop :=
  ∀ (s : State) (e : Entry) (es : List Entry), s.ready = true → s.portB[7] = false → QueueInv s →
    queueContents s = e :: es →
    ∃ t, exec .rd8A s = .next t ∧ t.result = .byte e.data ∧ t.portA1 = e.data ∧ queueContents t = es ∧
      t.trace = s.trace ++ [.irqSet (if e.aux = 0 then .kbd else .aux) 0]

/-- R134, R27: of several pushes the queue accepts as many as it has room for, the first ones, and drops the rest. -/
def Obligations.PushesBeyondCapacityAreDropped : Prop :=
  ∀ (es : List Entry) (s : State), QueueInv s →
    queueContents (pushEach es s) = queueContents s ++ es.take (256 - s.len) ∧
    (pushEach es s).len = min 256 (s.len + es.length)

/-- R114 (D21, log 15): a raw push enqueues its own pair once. The stimulus word carries an auxiliary byte 0 to 15, the
outside entry point any byte. -/
def Obligations.RawPushQueuesItsEntry : Prop :=
  ∀ (a : BitVec 4) (d b : Byte) (s : State), s.ready = true → s.pending = [] →
    exec (.qpush a d) s = .next { qWrite d (a.setWidth 8) s with result := .none } ∧
    rawPush d b s = .next { qWrite d b s with result := .none }

/-! ### The translator -/

/-- R130, R132, R133: a key press queues the pause sequence for the sentinel, else the prefix for an extended code and the
code masked to 7 bits, each an entry with auxiliary flag zero and each dropped on its own when the queue is full. -/
def Obligations.KeyPressQueuesItsBytes : Prop :=
  ∀ (code : Byte) (s : State), s.ready = true → Undisturbed s → QueueInv s →
    let bytes : List Byte := if code = s.cfg.pauseCode then [0xE1, 0x1D, 0x45, 0xE1, 0x9D, 0xC5]
      else (if code[7] = true then [0xE0] else []) ++ [code &&& 0x7F]
    ∃ t, exec (.keydown code) s = .next t ∧ t = { pushEach (bytes.map fun b => ⟨b, 0x00⟩) s with result := .none } ∧
      queueContents t = queueContents s ++ (bytes.map fun b => ⟨b, 0x00⟩).take (256 - s.len)

/-- R132, R133: the pause form queues its six bytes in order, whatever bit 7 of the sentinel is. -/
def Obligations.PauseKeyQueuesSixBytes : Prop :=
  ∀ s : State, s.ready = true → Undisturbed s → QueueInv s →
    let bytes : List Byte := [0xE1, 0x1D, 0x45, 0xE1, 0x9D, 0xC5]
    ∃ t, exec .keydownPause s = .next t ∧ t = { pushEach (bytes.map fun b => ⟨b, 0x00⟩) s with result := .none } ∧
      queueContents t = queueContents s ++ (bytes.map fun b => ⟨b, 0x00⟩).take (256 - s.len)

/-- R131, R133: a key release queues the prefix for an extended code and the code with bit 7 forced to 1. The sentinel
has no case of its own (D16, log 14). -/
def Obligations.KeyReleaseQueuesItsBytes : Prop :=
  ∀ (code : Byte) (s : State), s.ready = true → Undisturbed s → QueueInv s →
    let bytes : List Byte := (if code[7] = true then [0xE0] else []) ++ [code ||| 0x80]
    ∃ t, exec (.keyup code) s = .next t ∧ t = { pushEach (bytes.map fun b => ⟨b, 0x00⟩) s with result := .none } ∧
      queueContents t = queueContents s ++ (bytes.map fun b => ⟨b, 0x00⟩).take (256 - s.len)

/-- R51 (D17), log 2: under any schedule an operation of the input agent makes its pushes in order, at least the first,
and keeps the rest pending where the schedule gives the point to another agent. -/
def Obligations.KeyEventUnderAnySchedule : Prop :=
  ∀ (i : Instr) (s : State), agentOf i = .input → s.ready = true →
    let es := s.pending ++ pushesOf s.cfg.pauseCode i
    ∃ k, 1 ≤ k ∧ k ≤ es.length ∧
      exec i s = .next { pushEach (es.take k) s with
        pending := es.drop k, schedule := s.schedule.drop (k - 1), result := .none } ∧
      (k < es.length → s.schedule[k - 1]? = some true) ∧ ∀ j, j + 1 < k → s.schedule[j]? ≠ some true

/-- R130's quoted property, with the preconditions of C1 and C13: pressing a non-extended key and reading the data port
once gives its code; pressing an extended key and reading twice gives 0xE0 and the code masked to 7 bits. -/
def Obligations.PressThenReadGivesTheCode : Prop :=
  ∀ (code : Byte) (s : State), s.ready = true → Undisturbed s → QueueInv s → s.len = 0 →
    s.portB[7] = false → code ≠ s.cfg.pauseCode →
    ∃ t u, exec (.keydown code) s = .next t ∧ exec .rd8A t = .next u ∧
      (code[7] = false → u.result = .byte code ∧ u.len = 0) ∧
      (code[7] = true → u.result = .byte 0xE0 ∧
        ∃ v, exec .rd8A u = .next v ∧ v.result = .byte (code &&& 0x7F) ∧ v.len = 0)

/-- R131's quoted property: releasing a key and reading the data port gives the code with bit 7 set, after the prefix for
an extended code. -/
def Obligations.ReleaseThenReadGivesTheCode : Prop :=
  ∀ (code : Byte) (s : State), s.ready = true → Undisturbed s → QueueInv s → s.len = 0 →
    s.portB[7] = false →
    ∃ t u, exec (.keyup code) s = .next t ∧ exec .rd8A t = .next u ∧
      (code[7] = false → u.result = .byte (code ||| 0x80) ∧ u.len = 0) ∧
      (code[7] = true → u.result = .byte 0xE0 ∧
        ∃ v, exec .rd8A u = .next v ∧ v.result = .byte (code ||| 0x80) ∧ v.len = 0)

/-- R180 (D17, log 2): two data-port reads between the prefix and the code of one extended key press both return the
prefix; the code comes with the read after its own push. -/
def Obligations.PrefixReadTwiceBetweenPushes : Prop :=
  ∀ (code : Byte) (s : State), s.ready = true → QueueInv s → s.len = 0 → s.portB[7] = false →
    code ≠ s.cfg.pauseCode → code[7] = true → s.pending = [] → s.schedule = [true, true, false] →
    s.stimuli = [0x0000, 0x0000, 0x0000] →
    ∃ t₀ t₁ t₂ t₃ t₄, exec (.keydown code) s = .next t₀ ∧
      step t₀ = .next t₁ ∧ t₁.result = .byte 0xE0 ∧ step t₁ = .next t₂ ∧ t₂.result = .byte 0xE0 ∧
      step t₂ = .next t₃ ∧ step t₃ = .next t₄ ∧ t₄.result = .byte (code &&& 0x7F) ∧ t₄.stimuli = []

/-- R114, R133: no operation but a raw push puts an auxiliary entry into the queue, and while there is none every dequeue
names the keyboard line. That the self-test byte a control-port write pushes has auxiliary flag zero is the spec's
decision D10 (R87, log 10), and that raw pushes exist its decision D21 (log 15). -/
def Obligations.OnlyRawPushesAreAuxiliary : Prop :=
  (∀ (i : Instr) (s t : State), (∀ a d, i ≠ .qpush a d) → AllPrimary s → exec i s = .next t → AllPrimary t) ∧
  ∀ s : State, AllPrimary s → s.len ≠ 0 → (qRead s).2.trace = s.trace ++ [.irqSet .kbd 0]

/-- R130 to R135, the frame of the input operations: no register, no binding and not the read cursor changes, and of the
buffer only the slots the accepted pushes go to. -/
def Obligations.InputOperationFootprint : Prop :=
  ∀ (i : Instr) (s t : State), agentOf i = .input → QueueInv s → exec i s = .next t →
    (t.cfg = s.cfg ∧ t.portA0 = s.portA0 ∧ t.portA1 = s.portA1 ∧ t.portB = s.portB ∧ t.portC0 = s.portC0 ∧
      t.portC1 = s.portC1 ∧ t.mode = s.mode ∧ t.rp = s.rp ∧ t.boundTimer = s.boundTimer ∧
      t.boundIrq = s.boundIrq ∧ t.stimuli = s.stimuli ∧ s.len ≤ t.len) ∧
    ∀ k : Byte, t.len - s.len ≤ (k - s.wp).toNat → slot t.buf k = slot s.buf k

/-! ### The arbiter -/

/-- R120: an arbiter update makes two line calls and changes nothing else. The primary level is 1 only where the disabled
branch is enabled, the front entry is primary and bit 6 of `portB` is set; the auxiliary level is 0. The order of the two
calls is D12 (log 11). -/
def Obligations.ArbiterWritesBothLines : Prop :=
  ∀ s : State, arbUpdate s = { s with trace := s.trace ++
    [.irqSet .kbd (if s.len ≠ 0 ∧ (slot s.buf s.rp).aux = 0 ∧ s.cfg.arbLive = true ∧ s.portB[6] = true
      then 1 else 0), .irqSet .aux 0] }

/-- R121: a dequeue makes exactly one level-0 call, to the line the entry's auxiliary flag names, and looks at nothing
else; a fallback read and a queue reset make none. -/
def Obligations.ArbiterDeassertsOneLine : Prop :=
  (∀ (a : Byte) (s : State), arbDeassert a s = { s with trace := s.trace ++
    [.irqSet (if a ≠ 0 then .aux else .kbd) 0] }) ∧
  (∀ s : State, s.len ≠ 0 →
    (qRead s).2 = arbDeassert (slot s.buf s.rp).aux { s with rp := s.rp + 1, len := s.len - 1 }) ∧
  ∀ s : State, (s.len = 0 → (qRead s).2.trace = s.trace) ∧ (qReset s).trace = s.trace

/-- R123, R176: in the documented revision (`ARB_LIVE = false`, log 9) no step ever asserts a line. -/
def Obligations.NoInterruptIsEverRequested : Prop :=
  ∀ s t : State, s.cfg.arbLive = false → NoLineAsserted s → step s = .next t →
    t.cfg.arbLive = false ∧ NoLineAsserted t

/-- R10, R122: the output trace only grows; no event is ever taken back or reordered. -/
def Obligations.TraceOnlyGrows : Prop :=
  ∀ s t : State, step s = .next t → ∃ es, t.trace = s.trace ++ es

/-! ### The platform -/

/-- R151: an offered timer or interrupt controller is bound, any other object is ignored, nothing else changes, and the
device reports ready when both are bound. -/
def Obligations.BindBindsOneCollaborator : Prop :=
  ∀ s : State,
    exec (.bind .timer) s = .next { s with boundTimer := true, result := .none } ∧
    exec (.bind .irq) s = .next { s with boundIrq := true, result := .none } ∧
    offer none s = s ∧ s.ready = (s.boundTimer && s.boundIrq) ∧
    ∀ pause, decode pause 0x9000 = .ok (.bind .timer) ∧ decode pause 0x9100 = .ok (.bind .irq)

/-- R153 (D22, log 18): a snapshot returns the capacity, the two raw arrays over all 256 slots, the cursors and the
length, and changes nothing. -/
def Obligations.SnapshotReturnsTheRecord : Prop :=
  ∀ s : State, ∃ r : Record, exec .snapshot s = .next { s with result := .record r } ∧
    r.capacity = 256 ∧ r.readPosition = s.rp.toNat ∧ r.writePosition = s.wp.toNat ∧ r.length = s.len ∧
    ∀ k : Nat, (h : k < 256) → r.data[k] = s.buf[k].data ∧ r.aux[k] = s.buf[k].aux

/-- R153 (f) (D22, log 18): loading the record of a state gives its queue to another and leaves the other's registers; a
record of another capacity, or one that breaks R24, R25 or R28, is refused by name. -/
def Obligations.LoadedSnapshotRestoresTheQueue : Prop :=
  (∀ s u : State, QueueInv s →
    loadRecord (recordOf s) u =
      .next { u with buf := s.buf, rp := s.rp, wp := s.wp, len := s.len, result := .none }) ∧
  ∀ (r : Record) (u : State),
    (r.capacity ≠ 256 ∨ 256 ≤ r.readPosition ∨ 256 ≤ r.writePosition ∨ 256 < r.length ∨
      r.writePosition ≠ (r.readPosition + r.length) % 256) → loadRecord r u = .refused .badRecord

/-! ### The whole machine -/

/-- R16, R19, R21, R25, R27, R28: every step keeps the invariant, from every state that has it. That `mode` holds no byte
with bit 7 clear that was written is the spec's decision D13 (log 17). -/
def Obligations.StepKeepsTheInvariant : Prop :=
  ∀ s t : State, BlockInv s → step s = .next t → BlockInv t

/-- R28, R33: construction gives a state that has the invariant, with no line asserted and no key event half done; so
does reset. -/
def Obligations.ConstructionMeetsTheInvariant : Prop :=
  (∀ (c : Config) (s : State), construct c = .next s → BlockInv s ∧ NoLineAsserted s ∧ Undisturbed s) ∧
  BlockInv State.reset ∧ construct Config.default = .next State.reset

/-- R33, R165: construction sets every element to its parameter and is refused outside the parameters' range (log 20). The
reset values at the defaults are the spec's decisions D2 to D9 (log 7) at 512 KiB (log 5). -/
def Obligations.ConstructionSetsEveryElement : Prop :=
  (∀ c : Config, c.wf = true → ∃ s, construct c = .next s ∧
    s.cfg = c ∧ s.portA0 = c.cfgA ∧ s.portA1 = c.portA1Reset ∧ s.portB = c.portBReset ∧ s.portC0 = c.portC0Reset ∧
    s.portC1 = c.ramCode ∧ s.mode = c.modeReset ∧ s.buf = c.bufReset ∧ s.rp = 0 ∧ s.wp = 0 ∧ s.len = 0 ∧
    s.boundTimer = false ∧ s.boundIrq = false ∧ s.trace = []) ∧
  (∀ c : Config, (2 ^ 25 ≤ c.memBytes ∨ (c.memBytes < 131072 ∧ c.ramCode ≠ 0) ∨
      ¬ [c.portAAddr, c.portBAddr, c.portCAddr, c.portCmdAddr].Nodup) →
    construct c = .refused .badConfig) ∧
  State.reset.portA0 = 0x3C ∧ State.reset.portA1 = 0x00 ∧ State.reset.portB = 0x80 ∧ State.reset.portC0 = 0x03 ∧
  State.reset.portC1 = 0x04 ∧ State.reset.mode = 0x00 ∧ State.reset.buf = Vector.replicate 256 ⟨0x00, 0x00⟩

/-- R31, R34: no step changes the configuration or the two constant bytes, and no step unbinds a collaborator. -/
def Obligations.StepKeepsConfigurationAndBindings : Prop :=
  ∀ s t : State, step s = .next t →
    t.cfg = s.cfg ∧ t.portA0 = s.portA0 ∧ t.portC1 = s.portC1 ∧
    (s.boundTimer = true → t.boundTimer = true) ∧ (s.boundIrq = true → t.boundIrq = true)
end

