-- ==== Sys2Proof/Laws/Encoding.lean ====
section
/-! SUPPORT. The fields of a stimulus word (spec/30_encoding.md R73) and of the command bytes (R61, R62): a word is its
three fields, and each field of a word written by `wordOf` is the one written. -/

namespace Sys2Proof

@[simp] theorem opField_wordOf (op sel : BitVec 4) (data : Byte) : opField (wordOf op sel data) = op := by
  ext k hk
  simp only [opField, wordOf, BitVec.getElem_extractLsb', BitVec.getLsbD_append]
  rw [if_neg (by omega), if_neg (by omega), ← BitVec.getLsbD_eq_getElem]
  congr 1; omega

@[simp] theorem selField_wordOf (op sel : BitVec 4) (data : Byte) : selField (wordOf op sel data) = sel := by
  ext k hk
  simp only [selField, wordOf, BitVec.getElem_extractLsb', BitVec.getLsbD_append]
  rw [if_neg (by omega), if_pos (by omega), ← BitVec.getLsbD_eq_getElem]
  congr 1; omega

@[simp] theorem dataField_wordOf (op sel : BitVec 4) (data : Byte) : dataField (wordOf op sel data) = data := by
  ext k hk
  simp only [dataField, wordOf, BitVec.getElem_extractLsb', BitVec.getLsbD_append]
  rw [if_pos (by omega), ← BitVec.getLsbD_eq_getElem]
  congr 1; omega

/-- A word is its three fields (R73). -/
theorem wordOf_fields (w : StimWord) : wordOf (opField w) (selField w) (dataField w) = w := by
  apply BitVec.eq_of_getLsbD_eq
  intro k hk
  simp only [wordOf, opField, selField, dataField, BitVec.getLsbD_append, BitVec.getLsbD_extractLsb']
  split
  · simp; omega
  · split
    · rw [show 8 + (k - 8) = k by omega]; simp; omega
    · rw [show 12 + (k - 8 - 4) = k by omega]; simp; omega

/-- Masking a word masks its fields. -/
theorem wordOf_and (op sel op' sel' : BitVec 4) (data data' : Byte) :
    wordOf op sel data &&& wordOf op' sel' data' = wordOf (op &&& op') (sel &&& sel') (data &&& data') := by
  show ((op ++ sel) ++ data : BitVec (4 + 4 + 8)) &&& ((op' ++ sel') ++ data') = _
  rw [BitVec.and_append, BitVec.and_append]
  rfl

/-- Two words agree exactly where their fields do. -/
theorem wordOf_inj {op sel op' sel' : BitVec 4} {data data' : Byte} :
    wordOf op sel data = wordOf op' sel' data' ↔ op = op' ∧ sel = sel' ∧ data = data' := by
  refine ⟨fun h => ⟨?_, ?_, ?_⟩, fun ⟨h₁, h₂, h₃⟩ => by rw [h₁, h₂, h₃]⟩
  · simpa using congrArg opField h
  · simpa using congrArg selField h
  · simpa using congrArg dataField h

/-- Decoding the word of three fields is decoding the fields (R73). -/
@[simp] theorem decode_wordOf (pause : Byte) (op sel : BitVec 4) (data : Byte) :
    decode pause (wordOf op sel data) = decodeFields pause op sel data := by
  simp [decode]

end Sys2Proof
end

