-- ==== Sys2Proof/Laws/PerInstr.lean ====
section
/-! SUPPORT. The per-instruction family `EncodeInRow`: the word the encoder writes for an instruction matches the mask and
match of the instruction's row of the opcode table (spec/30_encoding.md R75), whatever its operands. -/

namespace Sys2Proof.Laws.EncodeInRow

/-- The encoding of `i` lies in its table row, at every `PAUSE_CODE`. -/
def Statement (i : Instr) : Prop :=
  ∀ pause : Byte, encode pause i &&& (tableRow pause i).2 = (tableRow pause i).1

/-- Masking a word by fields, each masked field named. -/
theorem rowWord (op op' : BitVec 4) {sel sel' s : BitVec 4} {data data' d : Byte} (hs : sel &&& sel' = s)
    (hd : data &&& data' = d) : wordOf op sel data &&& wordOf op' sel' data' = wordOf (op &&& op') s d := by
  rw [wordOf_and, hs, hd]

/-- A field the row leaves free. -/
theorem freeSel (x : BitVec 4) : x &&& 0 = 0 := BitVec.and_zero

/-- A byte the row leaves free. -/
theorem freeData (x : Byte) : x &&& 0 = 0 := BitVec.and_zero

theorem rd8A : Statement .rd8A := fun _ =>
  rowWord 0 0xF (sel' := 0xF) rfl (data' := 0xFF) rfl

theorem rd8B : Statement .rd8B := fun _ =>
  rowWord 0 0xF (sel' := 0xF) rfl (data' := 0xFF) rfl

theorem rd8C : Statement .rd8C := fun _ =>
  rowWord 0 0xF (sel' := 0xF) rfl (data' := 0xFF) rfl

theorem rd8Cmd : Statement .rd8Cmd := fun _ =>
  rowWord 0 0xF (sel' := 0xF) rfl (data' := 0xFF) rfl

theorem rd8OtherLow (s : BitVec 2) : Statement (.rd8OtherLow s) := fun _ =>
  rowWord 0 0xF (sel' := 0xC) (s := 4) (data' := 0xFF) (d := 0) (by revert s; decide) rfl

theorem rd8OtherHigh (s : BitVec 3) : Statement (.rd8OtherHigh s) := fun _ =>
  rowWord 0 0xF (sel' := 0x8) (s := 8) (data' := 0xFF) (d := 0) (by revert s; decide) rfl

theorem wr8A (v : Byte) : Statement (.wr8A v) := fun _ =>
  rowWord 1 0xF (sel' := 0xF) rfl (freeData v)

theorem wr8B (v : Byte) : Statement (.wr8B v) := fun _ =>
  rowWord 1 0xF (sel' := 0xF) rfl (freeData v)

theorem modeset (f : BitVec 7) : Statement (.modeset f) := fun _ =>
  rowWord 1 0xF (sel' := 0xF) rfl (data' := 0x80) (d := 0x80) (by revert f; decide)

theorem bitset (x n : BitVec 3) : Statement (.bitset x n) := fun _ =>
  rowWord 1 0xF (sel' := 0xF) rfl (data' := 0x81) (d := 0x01) (by revert x n; decide)

theorem bitclr (x n : BitVec 3) : Statement (.bitclr x n) := fun _ =>
  rowWord 1 0xF (sel' := 0xF) rfl (data' := 0x81) (d := 0x00) (by revert x n; decide)

theorem wr8C (v : Byte) : Statement (.wr8C v) := fun _ =>
  rowWord 1 0xF (sel' := 0xF) rfl (freeData v)

theorem wr8OtherLow (s : BitVec 2) (v : Byte) : Statement (.wr8OtherLow s v) := fun _ =>
  rowWord 1 0xF (sel' := 0xC) (s := 4) (by revert s; decide) (freeData v)

theorem wr8OtherHigh (s : BitVec 3) (v : Byte) : Statement (.wr8OtherHigh s v) := fun _ =>
  rowWord 1 0xF (sel' := 0x8) (s := 8) (by revert s; decide) (freeData v)

theorem rd16 (p : Port) : Statement (.rd16 p) := fun _ =>
  rowWord 2 0xF (freeSel _) (data' := 0xFF) rfl

theorem wr16 (p : Port) (v : Byte) : Statement (.wr16 p v) := fun _ =>
  rowWord 3 0xF (freeSel _) (freeData v)

theorem rd32 (p : Port) : Statement (.rd32 p) := fun _ =>
  rowWord 4 0xF (freeSel _) (data' := 0xFF) rfl

theorem wr32 (p : Port) (v : Byte) : Statement (.wr32 p v) := fun _ =>
  rowWord 5 0xF (freeSel _) (freeData v)

theorem keydown (c : Byte) : Statement (.keydown c) := fun _ =>
  rowWord 6 0xF (sel' := 0xF) rfl (freeData c)

theorem keydownPause : Statement .keydownPause := by
  intro pause
  revert pause
  decide

theorem keyup (c : Byte) : Statement (.keyup c) := fun _ =>
  rowWord 7 0xF (sel' := 0xF) rfl (freeData c)

theorem qpush (a : BitVec 4) (d : Byte) : Statement (.qpush a d) := fun _ =>
  rowWord 8 0xF (freeSel _) (freeData d)

theorem bind (k : Collaborator) : Statement (.bind k) := fun _ => by
  cases k
  · exact rowWord 9 0xF (sel' := 0xE) rfl (data' := 0xFF) rfl
  · exact rowWord 9 0xF (sel' := 0xE) rfl (data' := 0xFF) rfl

theorem snapshot : Statement .snapshot := fun _ =>
  rowWord 10 0xF (sel' := 0xF) rfl (data' := 0xFF) rfl

end Sys2Proof.Laws.EncodeInRow
end

