-- ==== Sys2Proof/Laws/State.lean ====
section
/-! SUPPORT. One lemma per field per record update of Machine/Ops.lean, each true by `rfl`, so that no proof unfolds an
update again. -/

namespace Sys2Proof.Machine

section

variable (e : Event) (s : State)

@[simp] theorem emit_cfg : (emit e s).cfg = s.cfg := rfl
@[simp] theorem emit_portA0 : (emit e s).portA0 = s.portA0 := rfl
@[simp] theorem emit_portA1 : (emit e s).portA1 = s.portA1 := rfl
@[simp] theorem emit_portB : (emit e s).portB = s.portB := rfl
@[simp] theorem emit_portC0 : (emit e s).portC0 = s.portC0 := rfl
@[simp] theorem emit_portC1 : (emit e s).portC1 = s.portC1 := rfl
@[simp] theorem emit_mode : (emit e s).mode = s.mode := rfl
@[simp] theorem emit_buf : (emit e s).buf = s.buf := rfl
@[simp] theorem emit_rp : (emit e s).rp = s.rp := rfl
@[simp] theorem emit_wp : (emit e s).wp = s.wp := rfl
@[simp] theorem emit_len : (emit e s).len = s.len := rfl
@[simp] theorem emit_boundTimer : (emit e s).boundTimer = s.boundTimer := rfl
@[simp] theorem emit_boundIrq : (emit e s).boundIrq = s.boundIrq := rfl
@[simp] theorem emit_trace : (emit e s).trace = s.trace ++ [e] := rfl
@[simp] theorem emit_result : (emit e s).result = s.result := rfl
@[simp] theorem emit_stimuli : (emit e s).stimuli = s.stimuli := rfl
@[simp] theorem emit_pending : (emit e s).pending = s.pending := rfl
@[simp] theorem emit_schedule : (emit e s).schedule = s.schedule := rfl

end

section

variable (r : Result) (s : State)

@[simp] theorem returning_cfg : (s.returning r).cfg = s.cfg := rfl
@[simp] theorem returning_portA0 : (s.returning r).portA0 = s.portA0 := rfl
@[simp] theorem returning_portA1 : (s.returning r).portA1 = s.portA1 := rfl
@[simp] theorem returning_portB : (s.returning r).portB = s.portB := rfl
@[simp] theorem returning_portC0 : (s.returning r).portC0 = s.portC0 := rfl
@[simp] theorem returning_portC1 : (s.returning r).portC1 = s.portC1 := rfl
@[simp] theorem returning_mode : (s.returning r).mode = s.mode := rfl
@[simp] theorem returning_buf : (s.returning r).buf = s.buf := rfl
@[simp] theorem returning_rp : (s.returning r).rp = s.rp := rfl
@[simp] theorem returning_wp : (s.returning r).wp = s.wp := rfl
@[simp] theorem returning_len : (s.returning r).len = s.len := rfl
@[simp] theorem returning_boundTimer : (s.returning r).boundTimer = s.boundTimer := rfl
@[simp] theorem returning_boundIrq : (s.returning r).boundIrq = s.boundIrq := rfl
@[simp] theorem returning_trace : (s.returning r).trace = s.trace := rfl
@[simp] theorem returning_result : (s.returning r).result = r := rfl
@[simp] theorem returning_stimuli : (s.returning r).stimuli = s.stimuli := rfl
@[simp] theorem returning_pending : (s.returning r).pending = s.pending := rfl
@[simp] theorem returning_schedule : (s.returning r).schedule = s.schedule := rfl

end

section

variable (s : State)

@[simp] theorem qReset_cfg : (qReset s).cfg = s.cfg := rfl
@[simp] theorem qReset_portA0 : (qReset s).portA0 = s.portA0 := rfl
@[simp] theorem qReset_portA1 : (qReset s).portA1 = s.portA1 := rfl
@[simp] theorem qReset_portB : (qReset s).portB = s.portB := rfl
@[simp] theorem qReset_portC0 : (qReset s).portC0 = s.portC0 := rfl
@[simp] theorem qReset_portC1 : (qReset s).portC1 = s.portC1 := rfl
@[simp] theorem qReset_mode : (qReset s).mode = s.mode := rfl
@[simp] theorem qReset_buf : (qReset s).buf = s.buf := rfl
@[simp] theorem qReset_rp : (qReset s).rp = 0 := rfl
@[simp] theorem qReset_wp : (qReset s).wp = 0 := rfl
@[simp] theorem qReset_len : (qReset s).len = 0 := rfl
@[simp] theorem qReset_boundTimer : (qReset s).boundTimer = s.boundTimer := rfl
@[simp] theorem qReset_boundIrq : (qReset s).boundIrq = s.boundIrq := rfl
@[simp] theorem qReset_trace : (qReset s).trace = s.trace := rfl
@[simp] theorem qReset_result : (qReset s).result = s.result := rfl
@[simp] theorem qReset_stimuli : (qReset s).stimuli = s.stimuli := rfl
@[simp] theorem qReset_pending : (qReset s).pending = s.pending := rfl
@[simp] theorem qReset_schedule : (qReset s).schedule = s.schedule := rfl

end

section

variable (a : Byte) (s : State)

@[simp] theorem arbDeassert_cfg : (arbDeassert a s).cfg = s.cfg := rfl
@[simp] theorem arbDeassert_portA0 : (arbDeassert a s).portA0 = s.portA0 := rfl
@[simp] theorem arbDeassert_portA1 : (arbDeassert a s).portA1 = s.portA1 := rfl
@[simp] theorem arbDeassert_portB : (arbDeassert a s).portB = s.portB := rfl
@[simp] theorem arbDeassert_portC0 : (arbDeassert a s).portC0 = s.portC0 := rfl
@[simp] theorem arbDeassert_portC1 : (arbDeassert a s).portC1 = s.portC1 := rfl
@[simp] theorem arbDeassert_mode : (arbDeassert a s).mode = s.mode := rfl
@[simp] theorem arbDeassert_buf : (arbDeassert a s).buf = s.buf := rfl
@[simp] theorem arbDeassert_rp : (arbDeassert a s).rp = s.rp := rfl
@[simp] theorem arbDeassert_wp : (arbDeassert a s).wp = s.wp := rfl
@[simp] theorem arbDeassert_len : (arbDeassert a s).len = s.len := rfl
@[simp] theorem arbDeassert_boundTimer : (arbDeassert a s).boundTimer = s.boundTimer := rfl
@[simp] theorem arbDeassert_boundIrq : (arbDeassert a s).boundIrq = s.boundIrq := rfl
@[simp] theorem arbDeassert_trace : (arbDeassert a s).trace = s.trace ++ [.irqSet (lineOf a) 0] := rfl
@[simp] theorem arbDeassert_result : (arbDeassert a s).result = s.result := rfl
@[simp] theorem arbDeassert_stimuli : (arbDeassert a s).stimuli = s.stimuli := rfl
@[simp] theorem arbDeassert_pending : (arbDeassert a s).pending = s.pending := rfl
@[simp] theorem arbDeassert_schedule : (arbDeassert a s).schedule = s.schedule := rfl

end

section

variable (s : State)

@[simp] theorem arbUpdate_cfg : (arbUpdate s).cfg = s.cfg := rfl
@[simp] theorem arbUpdate_portA0 : (arbUpdate s).portA0 = s.portA0 := rfl
@[simp] theorem arbUpdate_portA1 : (arbUpdate s).portA1 = s.portA1 := rfl
@[simp] theorem arbUpdate_portB : (arbUpdate s).portB = s.portB := rfl
@[simp] theorem arbUpdate_portC0 : (arbUpdate s).portC0 = s.portC0 := rfl
@[simp] theorem arbUpdate_portC1 : (arbUpdate s).portC1 = s.portC1 := rfl
@[simp] theorem arbUpdate_mode : (arbUpdate s).mode = s.mode := rfl
@[simp] theorem arbUpdate_buf : (arbUpdate s).buf = s.buf := rfl
@[simp] theorem arbUpdate_rp : (arbUpdate s).rp = s.rp := rfl
@[simp] theorem arbUpdate_wp : (arbUpdate s).wp = s.wp := rfl
@[simp] theorem arbUpdate_len : (arbUpdate s).len = s.len := rfl
@[simp] theorem arbUpdate_boundTimer : (arbUpdate s).boundTimer = s.boundTimer := rfl
@[simp] theorem arbUpdate_boundIrq : (arbUpdate s).boundIrq = s.boundIrq := rfl
@[simp] theorem arbUpdate_result : (arbUpdate s).result = s.result := rfl
@[simp] theorem arbUpdate_stimuli : (arbUpdate s).stimuli = s.stimuli := rfl
@[simp] theorem arbUpdate_pending : (arbUpdate s).pending = s.pending := rfl
@[simp] theorem arbUpdate_schedule : (arbUpdate s).schedule = s.schedule := rfl

end

/-- The two events of one arbiter update, adjacent and in the order of R120. -/
@[simp] theorem arbUpdate_trace (s : State) :
    (arbUpdate s).trace = s.trace ++ [.irqSet .kbd (kbdLevel s), .irqSet .aux 0] := by
  simp [arbUpdate, auxLevel]

@[simp] theorem returning_ready (r : Result) (s : State) : (s.returning r).ready = s.ready := rfl

@[simp] theorem emit_ready (e : Event) (s : State) : (emit e s).ready = s.ready := rfl

@[simp] theorem qReset_ready (s : State) : (qReset s).ready = s.ready := rfl

end Sys2Proof.Machine
end

