-- ==== Sys2Proof/Laws/Queue.lean ====
section
/-! SUPPORT. What the shared operations can do, said once: buffer slots, the queue operations (spec/41_event_queue.md),
the wiring precondition, and the pushes of the input agent. Later proofs cite these instead of unfolding. -/

namespace Sys2Proof.Machine

/-! ### Buffer slots -/

@[simp] theorem slot_setSlot_same (b : Vector Entry 256) (i : Byte) (e : Entry) :
    slot (setSlot b i e) i = e := by
  simp [slot, setSlot]

theorem slot_setSlot_other (b : Vector Entry 256) {i j : Byte} (e : Entry) (h : j ≠ i) :
    slot (setSlot b i e) j = slot b j := by
  have hne : i.toNat ≠ j.toNat := fun heq => h (BitVec.eq_of_toNat_eq heq.symm)
  simp [slot, setSlot, hne]

/-! ### `Q.WRITE` -/

/-- A full queue drops the entry without a trace (R27, R111). -/
theorem qWrite_full {s : State} (d a : Byte) (h : s.len = cap) : qWrite d a s = s := if_pos h

/-- A queue that is not full takes the entry and notifies the arbiter (R111). -/
theorem qWrite_room {s : State} (d a : Byte) (h : s.len ≠ cap) :
    qWrite d a s =
      arbUpdate { s with buf := setSlot s.buf s.wp ⟨d, a⟩, wp := nextSlot s.wp, len := s.len + 1 } := if_neg h

/-- The two outcomes of an enqueue. -/
theorem qWrite_cases (d a : Byte) (s : State) :
    (s.len = cap ∧ qWrite d a s = s) ∨
    (s.len ≠ cap ∧ (qWrite d a s).buf = setSlot s.buf s.wp ⟨d, a⟩ ∧ (qWrite d a s).wp = s.wp + 1 ∧
      (qWrite d a s).len = s.len + 1 ∧
      ∃ level, (qWrite d a s).trace = s.trace ++ [.irqSet .kbd level, .irqSet .aux 0] ∧
        (s.cfg.arbLive = false → level = 0)) := by
  by_cases h : s.len = cap
  · exact .inl ⟨h, qWrite_full d a h⟩
  · refine .inr ⟨h, ?_⟩
    rw [qWrite_room d a h]
    refine ⟨rfl, rfl, rfl, _, arbUpdate_trace _, fun hl => ?_⟩
    simp [kbdLevel, hl]

section

variable (d a : Byte) (s : State)

@[simp] theorem qWrite_cfg : (qWrite d a s).cfg = s.cfg := by
  unfold qWrite; split <;> rfl

@[simp] theorem qWrite_portA0 : (qWrite d a s).portA0 = s.portA0 := by
  unfold qWrite; split <;> rfl

@[simp] theorem qWrite_portA1 : (qWrite d a s).portA1 = s.portA1 := by
  unfold qWrite; split <;> rfl

@[simp] theorem qWrite_portB : (qWrite d a s).portB = s.portB := by
  unfold qWrite; split <;> rfl

@[simp] theorem qWrite_portC0 : (qWrite d a s).portC0 = s.portC0 := by
  unfold qWrite; split <;> rfl

@[simp] theorem qWrite_portC1 : (qWrite d a s).portC1 = s.portC1 := by
  unfold qWrite; split <;> rfl

@[simp] theorem qWrite_mode : (qWrite d a s).mode = s.mode := by
  unfold qWrite; split <;> rfl

@[simp] theorem qWrite_rp : (qWrite d a s).rp = s.rp := by
  unfold qWrite; split <;> rfl

@[simp] theorem qWrite_boundTimer : (qWrite d a s).boundTimer = s.boundTimer := by
  unfold qWrite; split <;> rfl

@[simp] theorem qWrite_boundIrq : (qWrite d a s).boundIrq = s.boundIrq := by
  unfold qWrite; split <;> rfl

@[simp] theorem qWrite_result : (qWrite d a s).result = s.result := by
  unfold qWrite; split <;> rfl

@[simp] theorem qWrite_stimuli : (qWrite d a s).stimuli = s.stimuli := by
  unfold qWrite; split <;> rfl

@[simp] theorem qWrite_pending : (qWrite d a s).pending = s.pending := by
  unfold qWrite; split <;> rfl

@[simp] theorem qWrite_schedule : (qWrite d a s).schedule = s.schedule := by
  unfold qWrite; split <;> rfl

@[simp] theorem qWrite_ready : (qWrite d a s).ready = s.ready := by
  simp [State.ready]

end

/-! ### `Q.READ` -/

/-- The fallback read changes nothing (R112). -/
theorem qRead_empty {s : State} (h : s.len = 0) :
    qRead s = ((slot s.buf (s.rp - 1)).data, s) := if_pos h

/-- The dequeue (R112). -/
theorem qRead_entry {s : State} (h : s.len ≠ 0) :
    qRead s = ((slot s.buf s.rp).data,
      arbDeassert (slot s.buf s.rp).aux { s with rp := s.rp + 1, len := s.len - 1 }) := if_neg h

section

variable (s : State)

@[simp] theorem qRead_cfg : (qRead s).2.cfg = s.cfg := by
  unfold qRead; split <;> rfl

@[simp] theorem qRead_portA0 : (qRead s).2.portA0 = s.portA0 := by
  unfold qRead; split <;> rfl

@[simp] theorem qRead_portA1 : (qRead s).2.portA1 = s.portA1 := by
  unfold qRead; split <;> rfl

@[simp] theorem qRead_portB : (qRead s).2.portB = s.portB := by
  unfold qRead; split <;> rfl

@[simp] theorem qRead_portC0 : (qRead s).2.portC0 = s.portC0 := by
  unfold qRead; split <;> rfl

@[simp] theorem qRead_portC1 : (qRead s).2.portC1 = s.portC1 := by
  unfold qRead; split <;> rfl

@[simp] theorem qRead_mode : (qRead s).2.mode = s.mode := by
  unfold qRead; split <;> rfl

@[simp] theorem qRead_buf : (qRead s).2.buf = s.buf := by
  unfold qRead; split <;> rfl

@[simp] theorem qRead_wp : (qRead s).2.wp = s.wp := by
  unfold qRead; split <;> rfl

@[simp] theorem qRead_boundTimer : (qRead s).2.boundTimer = s.boundTimer := by
  unfold qRead; split <;> rfl

@[simp] theorem qRead_boundIrq : (qRead s).2.boundIrq = s.boundIrq := by
  unfold qRead; split <;> rfl

@[simp] theorem qRead_result : (qRead s).2.result = s.result := by
  unfold qRead; split <;> rfl

@[simp] theorem qRead_stimuli : (qRead s).2.stimuli = s.stimuli := by
  unfold qRead; split <;> rfl

@[simp] theorem qRead_pending : (qRead s).2.pending = s.pending := by
  unfold qRead; split <;> rfl

@[simp] theorem qRead_schedule : (qRead s).2.schedule = s.schedule := by
  unfold qRead; split <;> rfl

end

/-! ### The wiring precondition -/

/-- Where `whenReady` goes on, the block is wired and the state is the one given (R152). -/
theorem whenReady_next {s t u : State} (h : whenReady s t = .next u) : s.ready = true ∧ u = t := by
  unfold whenReady at h
  split at h
  · rename_i hr
    injection h with h
    exact ⟨hr, h.symm⟩
  · cases h

theorem whenReady_ready {s : State} (t : State) (h : s.ready = true) : whenReady s t = .next t := if_pos h

theorem whenReady_unwired {s : State} (t : State) (h : s.ready = false) : whenReady s t = .refused .unwired := by
  simp [whenReady, h]

/-! ### The pushes of the input agent -/

@[simp] theorem pushEach_nil (s : State) : pushEach [] s = s := rfl

@[simp] theorem pushEach_cons (e : Entry) (es : List Entry) (s : State) :
    pushEach (e :: es) s = pushEach es (qWrite e.data e.aux s) := rfl

@[simp] theorem pushEach_cfg (es : List Entry) (s : State) : (pushEach es s).cfg = s.cfg := by
  induction es generalizing s with
  | nil => rfl
  | cons e es ih => simp [ih]

@[simp] theorem pushEach_portA0 (es : List Entry) (s : State) : (pushEach es s).portA0 = s.portA0 := by
  induction es generalizing s with
  | nil => rfl
  | cons e es ih => simp [ih]

@[simp] theorem pushEach_portA1 (es : List Entry) (s : State) : (pushEach es s).portA1 = s.portA1 := by
  induction es generalizing s with
  | nil => rfl
  | cons e es ih => simp [ih]

@[simp] theorem pushEach_portB (es : List Entry) (s : State) : (pushEach es s).portB = s.portB := by
  induction es generalizing s with
  | nil => rfl
  | cons e es ih => simp [ih]

@[simp] theorem pushEach_portC0 (es : List Entry) (s : State) : (pushEach es s).portC0 = s.portC0 := by
  induction es generalizing s with
  | nil => rfl
  | cons e es ih => simp [ih]

@[simp] theorem pushEach_portC1 (es : List Entry) (s : State) : (pushEach es s).portC1 = s.portC1 := by
  induction es generalizing s with
  | nil => rfl
  | cons e es ih => simp [ih]

@[simp] theorem pushEach_mode (es : List Entry) (s : State) : (pushEach es s).mode = s.mode := by
  induction es generalizing s with
  | nil => rfl
  | cons e es ih => simp [ih]

@[simp] theorem pushEach_rp (es : List Entry) (s : State) : (pushEach es s).rp = s.rp := by
  induction es generalizing s with
  | nil => rfl
  | cons e es ih => simp [ih]

@[simp] theorem pushEach_boundTimer (es : List Entry) (s : State) : (pushEach es s).boundTimer = s.boundTimer := by
  induction es generalizing s with
  | nil => rfl
  | cons e es ih => simp [ih]

@[simp] theorem pushEach_boundIrq (es : List Entry) (s : State) : (pushEach es s).boundIrq = s.boundIrq := by
  induction es generalizing s with
  | nil => rfl
  | cons e es ih => simp [ih]

@[simp] theorem pushEach_result (es : List Entry) (s : State) : (pushEach es s).result = s.result := by
  induction es generalizing s with
  | nil => rfl
  | cons e es ih => simp [ih]

@[simp] theorem pushEach_stimuli (es : List Entry) (s : State) : (pushEach es s).stimuli = s.stimuli := by
  induction es generalizing s with
  | nil => rfl
  | cons e es ih => simp [ih]

@[simp] theorem pushEach_pending (es : List Entry) (s : State) : (pushEach es s).pending = s.pending := by
  induction es generalizing s with
  | nil => rfl
  | cons e es ih => simp [ih]

@[simp] theorem pushEach_schedule (es : List Entry) (s : State) : (pushEach es s).schedule = s.schedule := by
  induction es generalizing s with
  | nil => rfl
  | cons e es ih => simp [ih]

/-- The fields a push neither reads nor writes can be set before or after it. -/
theorem qWrite_model (d a : Byte) (s : State) (ps : List Entry) (cs : List Bool) :
    qWrite d a { s with pending := ps, schedule := cs } = { qWrite d a s with pending := ps, schedule := cs } := by
  unfold qWrite
  split <;> rfl

theorem pushEach_model (es : List Entry) (s : State) (ps : List Entry) (cs : List Bool) :
    pushEach es { s with pending := ps, schedule := cs } = { pushEach es s with pending := ps, schedule := cs } := by
  induction es generalizing s with
  | nil => rfl
  | cons e es ih => simp only [pushEach_cons, qWrite_model, ih]

/-- What the input agent does when it goes on (R51): it makes some of its pushes in order and keeps the rest, and it
stops before the end only where the schedule gives the point to another agent. -/
theorem drain_cases (es : List Entry) (s : State) :
    ∃ k ≤ es.length, (drain es s = { pushEach (es.take k) s with
        pending := es.drop k, schedule := s.schedule.drop k }) ∧
      (∀ j < k, s.schedule[j]? ≠ some true) ∧ (k < es.length → s.schedule[k]? = some true) := by
  induction es generalizing s with
  | nil => exact ⟨0, Nat.le_refl 0, rfl, by simp, by simp⟩
  | cons e es ih =>
    by_cases h : s.schedule.head? = some true
    · refine ⟨0, Nat.zero_le _, by simp [drain, h], by simp, fun _ => ?_⟩
      rw [← List.head?_eq_getElem?]; exact h
    · obtain ⟨k, hk, heq, hno, hyes⟩ := ih (qWrite e.data e.aux { s with schedule := s.schedule.tail })
      refine ⟨k + 1, by simpa using hk, ?_, ?_, ?_⟩
      · rw [drain, if_neg h, heq]
        have hm := qWrite_model e.data e.aux s s.pending s.schedule.tail
        have hp := pushEach_model (es.take k) (qWrite e.data e.aux s) s.pending s.schedule.tail
        rw [hm, hp]
        simp [List.drop_tail]
      · intro j hj
        cases j with
        | zero => rw [← List.head?_eq_getElem?]; exact h
        | succ j => simpa using hno j (Nat.lt_of_succ_lt_succ hj)
      · intro hlt
        have := hyes (by simpa using hlt)
        simpa using this

/-- What an operation of the input agent does (R51): of the pushes before it and its own it makes at least the first, and
keeps the rest where the schedule gives the point to another agent. -/
theorem pushAll_cases (es : List Entry) (s : State) (hne : s.pending ++ es ≠ []) :
    ∃ k, 1 ≤ k ∧ k ≤ (s.pending ++ es).length ∧
      pushAll es s = { pushEach ((s.pending ++ es).take k) s with
        pending := (s.pending ++ es).drop k, schedule := s.schedule.drop (k - 1) } ∧
      (k < (s.pending ++ es).length → s.schedule[k - 1]? = some true) ∧
      ∀ j, j + 1 < k → s.schedule[j]? ≠ some true := by
  unfold pushAll
  cases h : s.pending ++ es with
  | nil => exact absurd h hne
  | cons e rest =>
    obtain ⟨k, hk, heq, hno, hyes⟩ := drain_cases rest (qWrite e.data e.aux { s with pending := [] })
    refine ⟨k + 1, by omega, by simpa using hk, ?_, fun hlt => ?_, fun j hj => ?_⟩
    · show drain rest _ = _
      rw [heq, show ({ s with pending := [] } : State) = { s with pending := [], schedule := s.schedule } from rfl,
        qWrite_model, pushEach_model]
      simp
    · simpa using hyes (by simpa using hlt)
    · simpa using hno j (by omega)

/-- Where there is nothing to push, nothing happens. -/
theorem pushAll_nothing {es : List Entry} {s : State} (h : s.pending ++ es = []) : pushAll es s = s := by
  simp [pushAll, h]

/-- With no key event half done and no interruption scheduled, all pushes are made at once. -/
theorem pushAll_undisturbed (es : List Entry) {s : State} (h : Undisturbed s) : pushAll es s = pushEach es s := by
  obtain ⟨hp, hs⟩ := h
  cases es with
  | nil => simp [pushAll, hp]
  | cons e es =>
    obtain ⟨k, h1, h2, heq, hyes, -⟩ := pushAll_cases (e :: es) s (by simp)
    have hk : k = (e :: es).length := by
      by_contra hne
      have := hyes (by simp [hp] at h2 ⊢; simp at hne; omega)
      simp [hs] at this
    rw [heq, hk]
    have hpe : (pushEach (e :: es) s).pending = [] := by rw [pushEach_pending, hp]
    have hse : (pushEach (e :: es) s).schedule = [] := by rw [pushEach_schedule, hs]
    simp only [hp, hs, List.nil_append, List.take_length, List.drop_length, List.drop_nil]
    rw [← hpe]
    conv => lhs; rw [show ([] : List Bool) = (pushEach (e :: es) s).schedule from hse.symm]

end Sys2Proof.Machine
end

