-- ==== Sys2Proof/Laws/Registers.lean ====
section
/-! SUPPORT. What the Register File's shared operations can do, said once (spec/40_register_file.md R81, R87): a read of
the data port by the stored bit 7, and the fields a control-port write leaves alone. -/

namespace Sys2Proof.Machine

/-- With the stored bit 7 set the data port gives the configuration byte and nothing changes (R81 (a)). -/
theorem readDataPort_config {s : State} (h : clrBit s.portB = true) : readDataPort s = (s.portA0, s) := if_pos h

/-- With it clear, `Q.READ` into `portA[1]` (R81). -/
theorem readDataPort_queue {s : State} (h : clrBit s.portB = false) :
    readDataPort s = ((qRead s).1, { (qRead s).2 with portA1 := (qRead s).1 }) := by
  simp [readDataPort, h]

/-- A control-port write without bit 6 (R87). -/
theorem writeControl_quiet {v : Byte} (s : State) (h : clkhBit v = false) :
    writeControl v s =
      (if clrBit v then qReset (emit (.timerGate gateChannel (gateBit v)) { s with portB := v })
       else emit (.timerGate gateChannel (gateBit v)) { s with portB := v }) := by
  simp [writeControl, h]

/-- A control-port write with bit 6: the same, then one self-test byte (R87, R173). -/
theorem writeControl_selfTest {v : Byte} (s : State) (h : clkhBit v = true) :
    writeControl v s =
      qWrite selfTestByte 0
        (if clrBit v then qReset (emit (.timerGate gateChannel (gateBit v)) { s with portB := v })
         else emit (.timerGate gateChannel (gateBit v)) { s with portB := v }) := by
  simp [writeControl, h]

section

variable (v : Byte) (s : State)

@[simp] theorem writeControl_cfg : (writeControl v s).cfg = s.cfg := by
  unfold writeControl; split <;> split <;> simp

@[simp] theorem writeControl_portA0 : (writeControl v s).portA0 = s.portA0 := by
  unfold writeControl; split <;> split <;> simp

@[simp] theorem writeControl_portA1 : (writeControl v s).portA1 = s.portA1 := by
  unfold writeControl; split <;> split <;> simp

@[simp] theorem writeControl_portC0 : (writeControl v s).portC0 = s.portC0 := by
  unfold writeControl; split <;> split <;> simp

@[simp] theorem writeControl_portC1 : (writeControl v s).portC1 = s.portC1 := by
  unfold writeControl; split <;> split <;> simp

@[simp] theorem writeControl_mode : (writeControl v s).mode = s.mode := by
  unfold writeControl; split <;> split <;> simp

@[simp] theorem writeControl_boundTimer : (writeControl v s).boundTimer = s.boundTimer := by
  unfold writeControl; split <;> split <;> simp

@[simp] theorem writeControl_boundIrq : (writeControl v s).boundIrq = s.boundIrq := by
  unfold writeControl; split <;> split <;> simp

@[simp] theorem writeControl_result : (writeControl v s).result = s.result := by
  unfold writeControl; split <;> split <;> simp

@[simp] theorem writeControl_stimuli : (writeControl v s).stimuli = s.stimuli := by
  unfold writeControl; split <;> split <;> simp

@[simp] theorem writeControl_pending : (writeControl v s).pending = s.pending := by
  unfold writeControl; split <;> split <;> simp

@[simp] theorem writeControl_schedule : (writeControl v s).schedule = s.schedule := by
  unfold writeControl; split <;> split <;> simp

@[simp] theorem writeControl_portB : (writeControl v s).portB = v := by
  unfold writeControl; split <;> split <;> simp

@[simp] theorem writeControl_ready : (writeControl v s).ready = s.ready := by
  simp [State.ready]

end

section

variable (s : State)

@[simp] theorem readDataPort_cfg : (readDataPort s).2.cfg = s.cfg := by
  unfold readDataPort; split <;> simp

@[simp] theorem readDataPort_portA0 : (readDataPort s).2.portA0 = s.portA0 := by
  unfold readDataPort; split <;> simp

@[simp] theorem readDataPort_portB : (readDataPort s).2.portB = s.portB := by
  unfold readDataPort; split <;> simp

@[simp] theorem readDataPort_portC0 : (readDataPort s).2.portC0 = s.portC0 := by
  unfold readDataPort; split <;> simp

@[simp] theorem readDataPort_portC1 : (readDataPort s).2.portC1 = s.portC1 := by
  unfold readDataPort; split <;> simp

@[simp] theorem readDataPort_mode : (readDataPort s).2.mode = s.mode := by
  unfold readDataPort; split <;> simp

@[simp] theorem readDataPort_buf : (readDataPort s).2.buf = s.buf := by
  unfold readDataPort; split <;> simp

@[simp] theorem readDataPort_wp : (readDataPort s).2.wp = s.wp := by
  unfold readDataPort; split <;> simp

@[simp] theorem readDataPort_boundTimer : (readDataPort s).2.boundTimer = s.boundTimer := by
  unfold readDataPort; split <;> simp

@[simp] theorem readDataPort_boundIrq : (readDataPort s).2.boundIrq = s.boundIrq := by
  unfold readDataPort; split <;> simp

@[simp] theorem readDataPort_result : (readDataPort s).2.result = s.result := by
  unfold readDataPort; split <;> simp

@[simp] theorem readDataPort_stimuli : (readDataPort s).2.stimuli = s.stimuli := by
  unfold readDataPort; split <;> simp

@[simp] theorem readDataPort_pending : (readDataPort s).2.pending = s.pending := by
  unfold readDataPort; split <;> simp

@[simp] theorem readDataPort_schedule : (readDataPort s).2.schedule = s.schedule := by
  unfold readDataPort; split <;> simp

@[simp] theorem readDataPort_ready : (readDataPort s).2.ready = s.ready := by
  simp [State.ready]

end

end Sys2Proof.Machine
end

