-- ==== Sys2Proof/Tests/Slice0.lean ====
section
/-! SUPPORT. The model's own tests, and the witnesses of the obligations' hypotheses. Expected values are taken from
spec/95_test_vectors.md (T, V and P numbers) and spec/30_encoding.md R74; each test is one step on a small state. -/

namespace Sys2Proof.Tests

open Sys2Proof.Machine

/-- The test vectors' start state `S0`: construction at 512 KiB, both collaborators bound. -/
def stateS0 : State := State.reset.wired

/-- The test vectors' "keyboard-read mode": `S0` with the control byte 0. -/
def stateS1 : State := { stateS0 with portB := 0x00 }

/-- `S1` with one entry queued at slot 0. -/
def stateOne (d a : Byte) : State :=
  { stateS1 with buf := setSlot stateS1.buf 0 ⟨d, a⟩, wp := 1, len := 1 }

/-- `S1` with a full queue. -/
def stateFull : State := { stateS1 with len := 256 }

/-- What a step's next state shows. -/
def got {α : Type} (o : Host.Outcome State Fault Refusal) (f : State → α) : Option α :=
  match o with
  | .next s => some (f s)
  | .fault _ => none
  | .refused _ => none

/-! ### Well-formedness: each check refuses an ill-formed term -/

theorem test_wellFormed_refuses_other_below_four : (Instr.rd16 (.other 3)).wellFormed 0xFF = false := by decide

theorem test_wellFormed_accepts_other_four : (Instr.wr32 (.other 4) 0).wellFormed 0xFF = true := by decide

theorem test_wellFormed_refuses_plain_sentinel : (Instr.keydown 0x45).wellFormed 0x45 = false := by decide

/-! ### Decoding: words written out from the encodings (R74, V50, R75) -/

theorem test_decode_rd8A : decode 0xFF 0b0000000000000000 = .ok .rd8A := by decide
theorem test_decode_rd8B : decode 0xFF 0b0000000100000000 = .ok .rd8B := by decide
theorem test_decode_rd8C : decode 0xFF 0b0000001000000000 = .ok .rd8C := by decide
theorem test_decode_rd8Cmd : decode 0xFF 0b0000001100000000 = .ok .rd8Cmd := by decide
theorem test_decode_rd8OtherLow : decode 0xFF 0b0000011000000000 = .ok (.rd8OtherLow 2) := by decide
theorem test_decode_rd8OtherHigh : decode 0xFF 0x0F00 = .ok (.rd8OtherHigh 7) := by decide
theorem test_decode_wr8A : decode 0xFF 0x10FF = .ok (.wr8A 0xFF) := by decide
theorem test_decode_wr8B : decode 0xFF 0x114C = .ok (.wr8B 0x4C) := by decide
theorem test_decode_modeset : decode 0xFF 0b0001001110011001 = .ok (.modeset 0b0011001) := by decide
theorem test_decode_bitset : decode 0xFF 0x137F = .ok (.bitset 7 7) := by decide
theorem test_decode_bitclr : decode 0xFF 0b0001001100000010 = .ok (.bitclr 0 1) := by decide
theorem test_decode_wr8C : decode 0xFF 0x12AB = .ok (.wr8C 0xAB) := by decide
theorem test_decode_wr8OtherLow : decode 0xFF 0x1412 = .ok (.wr8OtherLow 0 0x12) := by decide
theorem test_decode_wr8OtherHigh : decode 0xFF 0x1912 = .ok (.wr8OtherHigh 1 0x12) := by decide
theorem test_decode_rd16 : decode 0xFF 0x2300 = .ok (.rd16 .cmd) := by decide
theorem test_decode_wr16 : decode 0xFF 0x3101 = .ok (.wr16 .b 0x01) := by decide
theorem test_decode_rd32 : decode 0xFF 0x4200 = .ok (.rd32 .c) := by decide
theorem test_decode_wr32 : decode 0xFF 0x5399 = .ok (.wr32 .cmd 0x99) := by decide
theorem test_decode_keydown : decode 0xFF 0x60C8 = .ok (.keydown 0xC8) := by decide
theorem test_decode_keydownPause : decode 0x45 0x6045 = .ok .keydownPause := by decide
theorem test_decode_keyup : decode 0xFF 0x70FF = .ok (.keyup 0xFF) := by decide
theorem test_decode_qpush : decode 0xFF 0x8F12 = .ok (.qpush 15 0x12) := by decide
theorem test_decode_bind : decode 0xFF 0x9100 = .ok (.bind .irq) := by decide
theorem test_decode_snapshot : decode 0xFF 0xA000 = .ok .snapshot := by decide
theorem test_decode_refuses_data : decode 0xFF 0x0001 = .error .badData := by decide
theorem test_decode_refuses_sel : decode 0xFF 0x6100 = .error .badSel := by decide
theorem test_decode_refuses_bind : decode 0xFF 0x9200 = .error .badSel := by decide
theorem test_decode_refuses_op : decode 0xFF 0xB000 = .error .reservedOp := by decide
theorem test_decodeTableWord_pause : decodeTableWord 16 0x60FF = some .keydownPause := by decide

/-! ### Register File -/

/-- T8: the data port before any key event. -/
theorem test_rd8A_config : got (exec .rd8A stateS0) (·.result) = some (.byte 0x3C) := by decide

/-- R81's example. -/
theorem test_rd8A_dequeue : got (exec .rd8A (stateOne 0x1E 0)) (fun t => (t.result, t.rp, t.len, t.portA1, t.trace)) =
    some (.byte 0x1E, 1, 0, 0x1E, [.irqSet .kbd 0]) := by decide

/-- V26: the fallback byte in mid-buffer. -/
theorem test_qRead_fallback :
    (qRead { stateS1 with rp := 5, wp := 5, buf := setSlot stateS1.buf 4 ⟨0x9E, 0⟩ }).1 = 0x9E := by decide

/-- V24: at `rp = 0` the fallback is slot 255. -/
theorem test_qRead_fallback_wraps :
    (qRead { stateS1 with buf := setSlot stateS1.buf 255 ⟨0x5A, 0⟩ }).1 = 0x5A := by decide

theorem test_rd8B : got (exec .rd8B stateS0) (·.result) = some (.byte 0x80) := by decide

/-- T8: the status port before any write. -/
theorem test_rd8C_status : got (exec .rd8C stateS0) (·.result) = some (.byte 0x03) := by decide

/-- V2: the RAM-size code. -/
theorem test_rd8C_ram : got (exec .rd8C { stateS0 with portB := 0x04 }) (·.result) = some (.byte 0x04) := by decide

theorem test_rd8Cmd : got (exec .rd8Cmd { stateS0 with mode := 0x99 }) (·.result) = some (.byte 0x99) := by decide

theorem test_rd8OtherLow : got (exec (.rd8OtherLow 0) stateS0) (·.result) = some (.byte 0x00) := by decide

theorem test_rd8OtherHigh : got (exec (.rd8OtherHigh 7) stateS0) (·.result) = some (.byte 0x00) := by decide

theorem test_wr8A : got (exec (.wr8A 0xFF) stateS0) (fun t => (t.portA0, t.portA1)) = some (0x3C, 0x00) := by decide

/-- R87's example. -/
theorem test_wr8B_both : got (exec (.wr8B 0xC1) stateS0) (fun t => (t.portB, t.rp, t.wp, t.len, t.trace)) =
    some (0xC1, 0, 1, 1, [.timerGate 2 true, .irqSet .kbd 0, .irqSet .aux 0]) := by decide

/-- V14: clock-high on a full queue. -/
theorem test_wr8B_full : got (exec (.wr8B 0x40) stateFull) (fun t => (t.len, t.trace)) =
    some (256, [.timerGate 2 false]) := by decide

/-- V36: with `ARB_LIVE` the primary line is asserted; not the documented revision. -/
theorem test_qWrite_arbLive :
    (qWrite 0xAA 0 { stateS1 with portB := 0x40, cfg := { stateS1.cfg with arbLive := true } }).trace =
    [.irqSet .kbd 1, .irqSet .aux 0] := by decide

/-- V9: the fields of 0x99. -/
theorem test_modeset : got (exec (.modeset 0x19) stateS0)
    (fun t => (t.mode, t.groupAMode, [t.dirA, t.dirCHigh, t.groupBMode, t.dirB, t.dirCLow])) =
    some (0x99, 0, [true, true, false, false, true]) := by decide

/-- V4. -/
theorem test_bitset : got (exec (.bitset 0 7) stateS0) (fun t => (t.portC0, t.mode)) = some (0x83, 0x00) := by decide

/-- V6: the ignored bits. -/
theorem test_bitset_ignored : got (exec (.bitset 7 7) stateS0) (·.portC0) = some 0x83 := by decide

/-- V5. -/
theorem test_bitclr : got (exec (.bitclr 0 1) { stateS0 with portC0 := 0x83 }) (·.portC0) = some 0x81 := by decide

theorem test_wr8C : got (exec (.wr8C 0xFF) stateS0) (·.portC0) = some 0x03 := by decide

theorem test_wr8OtherLow : got (exec (.wr8OtherLow 0 0x12) stateS0) (·.trace) = some [] := by decide

theorem test_wr8OtherHigh : got (exec (.wr8OtherHigh 1 0x12) stateS0) (·.trace) = some [] := by decide

/-- V15: a wide read does not dequeue. -/
theorem test_rd16 : got (exec (.rd16 .a) (stateOne 0x1E 0)) (fun t => (t.result, t.len)) =
    some (.half 0, 1) := by decide

theorem test_rd32 : got (exec (.rd32 .c) stateS0) (·.result) = some (.wide 0) := by decide

/-- V15: a wide write at the control port does nothing. -/
theorem test_wr16 : got (exec (.wr16 .b 0xC1) (stateOne 0x1E 0)) (fun t => (t.portB, t.len, t.trace)) =
    some (0x00, 1, []) := by decide

theorem test_wr32 : got (exec (.wr32 .cmd 0x99) stateS0) (·.mode) = some 0x00 := by decide

/-! ### Translator, raw push, platform -/

/-- T4: an extended key queues its prefix and its code. -/
theorem test_keydown_extended : got (exec (.keydown 0xC8) stateS1) queueContents =
    some [⟨0xE0, 0⟩, ⟨0x48, 0⟩] := by decide

/-- V42: the code of an extended key is dropped when its prefix fills the queue. -/
theorem test_pushAll_partial :
    let t := pushAll (keyEntries (pressBytes 0xFF 0xC8)) { stateS1 with wp := 255, len := 255 }
    (slot t.buf 255, t.wp, t.len) = (⟨0xE0, 0⟩, 0, 256) := by decide

/-- R132's example. -/
theorem test_keydownPause : got (exec .keydownPause stateS1) queueContents =
    some [⟨0xE1, 0⟩, ⟨0x1D, 0⟩, ⟨0x45, 0⟩, ⟨0xE1, 0⟩, ⟨0x9D, 0⟩, ⟨0xC5, 0⟩] := by decide

/-- V40: releases. -/
theorem test_keyup : got (exec (.keyup 0x1E) stateS1) queueContents = some [⟨0x9E, 0⟩] := by decide

/-- V40: the sentinel's release follows the general rule (D16). -/
theorem test_keyup_sentinel : got (exec (.keyup 0xFF) stateS1) queueContents =
    some [⟨0xE0, 0⟩, ⟨0xFF, 0⟩] := by decide

/-- V28. -/
theorem test_qpush : got (exec (.qpush 1 0x55) stateS1) (fun t => (queueContents t, t.trace)) =
    some ([⟨0x55, 1⟩], [.irqSet .kbd 0, .irqSet .aux 0]) := by decide

/-- V28: the dequeue of an auxiliary entry names the auxiliary line. -/
theorem test_qRead_aux : (qRead (stateOne 0x55 1)).2.trace = [.irqSet .aux 0] := by decide

theorem test_bind : got (exec (.bind .irq) State.reset) (fun t => (t.boundTimer, t.boundIrq, t.ready)) =
    some (false, true, false) := by decide

/-- R152, R153: allowed before wiring; data apart from auxiliary. -/
theorem test_snapshot : got (exec .snapshot { stateFull with boundIrq := false, buf := setSlot stateFull.buf 7 ⟨0x12, 1⟩ })
    (fun t => match t.result with
      | .record r => some ([r.data[7], r.aux[7], r.data[8]], [r.capacity, r.readPosition, r.writePosition, r.length])
      | _ => none) = some (some ([0x12, 1, 0], [256, 0, 0, 256])) := by decide

/-- V18: a bus access before wiring is refused. -/
theorem test_unwired : exec .rd8C State.reset = .refused .unwired := by rfl

/-- V45: with the point between the pushes given to another agent, the code stays pending. -/
theorem test_keydown_yields : got (exec (.keydown 0xC8) { stateS1 with schedule := [true] })
    (fun t => (queueContents t, t.pending)) = some ([⟨0xE0, 0⟩], [⟨0x48, 0⟩]) := by decide

/-- The step runs a placed word. -/
theorem test_step_placed : got (step (State.reset.withFetchWord 16 0x0200)) (·.result) = some (.byte 0x03) := by decide

/-- R41 at the configuration's own addresses. -/
theorem test_busRead : got (busRead 0x62 1 stateS0) (·.result) = some (.byte 0x03) := by decide

theorem test_construct_refuses : construct (Config.ofMemory (2 ^ 25)) = .refused .badConfig := by rfl

/-! ### Witnesses: for every obligation with hypotheses, a state and operands that meet them -/

/-- For the obligations whose one hypothesis is that the block is wired: EveryOperationCompletesWhenWired,
ControlPortReadEchoes, StatusPortReadSelectsByBankBit (both clauses below), CommandPortReadReturnsLastModeByte,
OtherAddressReadsZero, IgnoredByteWrites, WideAccessesReturnOrIgnoreZero, ModesetStoresTheCommandByte,
BitsetSetsOneStatusBit, BitclrClearsOneStatusBit, ModeRegisterGatesNothing. -/
theorem witness_ready : stateS0.ready = true ∧ stateS1.ready = true := by decide

theorem witness_DecodeInvertsEncode :
    (Instr.keydown 0x1E).wellFormed 0xFF = true ∧ (Instr.rd16 (.other 4)).wellFormed 0xFF = true := by decide

theorem witness_EncodeInvertsDecode : decode 0xFF 0x8F12 = .ok (.qpush 15 0x12) := by decide

theorem witness_DecodedWordLiesInItsRow : decode 0x45 0x6045 = .ok .keydownPause := by decide

theorem witness_WordInARowDecodesToThatRow :
    (0x601E : StimWord) &&& (tableRow 0xFF (.keydown 0)).2 = (tableRow 0xFF (.keydown 0)).1 ∧
    (0x601E : StimWord).extractLsb' 0 8 ≠ (0xFF : Byte) := by decide

theorem witness_StepRunsTheDecodedOperation :
    let s : State := { stateS0 with stimuli := [0x0200] }
    s.pending = [] ∧ s.stimuli = 0x0200 :: [] ∧ decode s.cfg.pauseCode 0x0200 = .ok .rd8C := by decide

theorem witness_StepWithNothingToRun :
    (stateS0.pending = [] ∧ stateS0.stimuli = []) ∧
    let s : State := { stateS0 with stimuli := [0xB000] }
    s.pending = [] ∧ s.stimuli = 0xB000 :: [] ∧ decode s.cfg.pauseCode 0xB000 = .error .reservedOp := by decide

theorem witness_StepRunsAnotherAgentBetweenPushes :
    let s : State := { stateS1 with pending := [⟨0x48, 0⟩], schedule := [true], stimuli := [0x0000] }
    s.pending ≠ [] ∧ s.schedule = true :: [] ∧ s.stimuli = 0x0000 :: [] ∧
    decode s.cfg.pauseCode 0x0000 = .ok .rd8A ∧ agentOf .rd8A ≠ .input := by decide

theorem witness_StepGoesOnWithTheKeyEvent :
    let s : State := { stateS1 with pending := [⟨0x48, 0⟩] }
    s.ready = true ∧ s.pending ≠ [] ∧ s.schedule.head? ≠ some true := by decide

/-- The other clause: the schedule yields but no other agent's operation waits. -/
theorem witness_StepGoesOnWithTheKeyEvent_nobody_waits :
    let s : State := { stateS1 with pending := [⟨0x48, 0⟩], schedule := [true] }
    s.ready = true ∧ s.pending ≠ [] ∧ ¬ OtherAgentWaits s := by
  refine ⟨by decide, by decide, ?_⟩
  rintro ⟨w, ws, i, hs, -, -⟩
  exact absurd hs (by simp [stateS1, stateS0, State.wired, offer, State.reset, State.ofConfig])

theorem witness_PlacedWordRunsNext :
    0x0200 < 2 ^ 16 ∧ decode State.reset.cfg.pauseCode (BitVec.ofNat 16 0x0200) = .ok .rd8C := by decide

theorem witness_UnwiredOperationsAreRefused :
    State.reset.ready = false ∧ agentOf .rd8C ≠ .host ∧ agentOf .snapshot = .host := by decide

theorem witness_StatusPortReadSelectsByBankBit :
    (stateS0.ready = true ∧ stateS0.portB[2] = false) ∧
    let s : State := { stateS0 with portB := 0x04 }
    s.ready = true ∧ s.portB[2] = true := by decide

theorem witness_CommandPortReadReturnsLastModeByte :
    (∀ f, (Instr.rd8B) ≠ .modeset f) ∧ (∃ t, exec .rd8B stateS0 = .next t) ∧ (0x80 : Byte)[7] = true :=
  ⟨(fun _ h => by cases h), ⟨_, rfl⟩, by decide⟩

theorem witness_DataPortRead :
    (stateS0.ready = true ∧ stateS0.portB[7] = true) ∧
    (stateS1.ready = true ∧ stateS1.portB[7] = false ∧ stateS1.len = 0) ∧
    ((stateOne 0x1E 0).ready = true ∧ (stateOne 0x1E 0).portB[7] = false ∧ (stateOne 0x1E 0).len ≠ 0) := by decide

/-- Both clauses of the control-port write, each at a full and at an almost full queue. -/
theorem witness_ControlPortWrite :
    stateFull.ready = true ∧ stateFull.len = 256 ∧ (0x40 : Byte)[7] = false ∧ (0x40 : Byte)[6] = true ∧
    (0xC0 : Byte)[7] = true ∧ (0xC0 : Byte)[6] = true ∧
    ({ stateFull with len := 255 } : State).ready = true ∧ ({ stateFull with len := 255 } : State).len ≠ 256 := by
  decide

theorem witness_ClearKeyboardEmptiesOnlyTheQueue :
    stateFull.ready = true ∧ (0x80 : Byte)[7] = true ∧ (0x80 : Byte)[6] = false := by decide

theorem witness_CommandByteSelectsExactlyOne :
    (0x80 : Byte)[7] = true ∧ ((0x7F : Byte)[7] = false ∧ (0x7F : Byte)[0] = true) ∧
    ((0x00 : Byte)[7] = false ∧ (0x00 : Byte)[0] = false) := by decide

theorem witness_BusAccessReachesTheSelectedPort :
    stateS0.cfg.wf = true ∧ 0x64 ∉ [stateS0.cfg.portAAddr, stateS0.cfg.portBAddr, stateS0.cfg.portCAddr,
      stateS0.cfg.portCmdAddr] ∧ 3 ∉ [1, 2, 4] := by decide

/-- Each row of a data-port read, and a control-port write that pushes, that has bit 6 clear, and that finds the queue
full. -/
theorem witness_BusOperationFootprint :
    (agentOf .rd8A = .bus ∧ agentOf (.wr8B 0xC1) = .bus) ∧
    (stateS0.portB[7] = true ∧ ∃ t, exec .rd8A stateS0 = .next t) ∧
    (stateS1.portB[7] = false ∧ stateS1.len = 0 ∧ ∃ t, exec .rd8A stateS1 = .next t) ∧
    (stateFull.portB[7] = false ∧ stateFull.len ≠ 0 ∧ ∃ t, exec .rd8A stateFull = .next t) ∧
    (∃ t, exec (.wr8B 0xC1) stateFull = .next t) ∧ (∃ t, exec (.wr8B 0x80) stateFull = .next t) ∧
    stateFull.len = 256 ∧ ∃ t, exec (.wr8B 0x40) stateFull = .next t :=
  ⟨⟨rfl, rfl⟩, ⟨by decide, _, rfl⟩, ⟨by decide, by decide, _, rfl⟩, ⟨by decide, by decide, _, rfl⟩,
    ⟨_, rfl⟩, ⟨_, rfl⟩, by decide, _, rfl⟩

theorem witness_LatchedByteIsHidden : ∃ t, exec .rd8A stateS1 = .next t := ⟨_, rfl⟩

theorem witness_FullQueueDropsWrites : stateFull.len = 256 ∧ ({ stateFull with len := 255 } : State).len ≤ 256 := by
  decide

theorem witness_EnqueueStoresOrDrops : stateFull.len = 256 ∧ ({ stateFull with len := 255 } : State).len ≠ 256 := by
  decide

theorem witness_DequeueOrFallback : stateS1.len = 0 ∧ stateFull.len ≠ 0 ∧ (stateOne 0x1E 0).len = 1 := by decide

theorem witness_EmptyReadRepeats : stateS1.ready = true ∧ stateS1.len = 0 ∧ stateS1.portB[7] = false := by decide

/-- An empty, a part full and a full queue, for QueueIsFirstInFirstOut and PushesBeyondCapacityAreDropped. -/
theorem witness_QueueIsFirstInFirstOut :
    QueueInv stateS1 ∧ (QueueInv (stateOne 0x1E 0) ∧ (stateOne 0x1E 0).len ≠ 0) ∧ QueueInv stateFull :=
  ⟨⟨by decide, by decide⟩, ⟨⟨by decide, by decide⟩, by decide⟩, ⟨by decide, by decide⟩⟩

theorem witness_DataPortReadsDeliverTheQueueInOrder :
    (stateOne 0x1E 0).ready = true ∧ (stateOne 0x1E 0).portB[7] = false ∧ QueueInv (stateOne 0x1E 0) ∧
    queueContents (stateOne 0x1E 0) = ⟨0x1E, 0⟩ :: [] :=
  ⟨by decide, by decide, ⟨by decide, by decide⟩, by decide⟩

theorem witness_PushesBeyondCapacityAreDropped : QueueInv { stateFull with len := 255, wp := 255 } :=
  ⟨by decide, by decide⟩

theorem witness_RawPushQueuesItsEntry : stateS1.ready = true ∧ stateS1.pending = [] := by decide

/-- For KeyPressQueuesItsBytes, PauseKeyQueuesSixBytes and KeyReleaseQueuesItsBytes. -/
theorem witness_KeyPressQueuesItsBytes : stateS1.ready = true ∧ Undisturbed stateS1 ∧ QueueInv stateS1 :=
  ⟨by decide, ⟨rfl, rfl⟩, ⟨by decide, by decide⟩⟩

theorem witness_KeyEventUnderAnySchedule : agentOf (.keydown 0xC8) = .input ∧ stateS1.ready = true := by decide

/-- For PressThenReadGivesTheCode, a plain and an extended code, and ReleaseThenReadGivesTheCode. -/
theorem witness_PressThenReadGivesTheCode :
    stateS1.ready = true ∧ Undisturbed stateS1 ∧ QueueInv stateS1 ∧ stateS1.len = 0 ∧ stateS1.portB[7] = false ∧
    ((0x7F : Byte) ≠ stateS1.cfg.pauseCode ∧ (0x7F : Byte)[7] = false) ∧
    ((0x80 : Byte) ≠ stateS1.cfg.pauseCode ∧ (0x80 : Byte)[7] = true) :=
  ⟨by decide, ⟨rfl, rfl⟩, ⟨by decide, by decide⟩, by decide, by decide, by decide, by decide⟩

theorem witness_PrefixReadTwiceBetweenPushes :
    let s : State := { stateS1 with schedule := [true, true, false], stimuli := [0x0000, 0x0000, 0x0000] }
    s.ready = true ∧ QueueInv s ∧ s.len = 0 ∧ s.portB[7] = false ∧ (0xC8 : Byte) ≠ s.cfg.pauseCode ∧
    (0xC8 : Byte)[7] = true ∧ s.pending = [] ∧ s.schedule = [true, true, false] ∧
    s.stimuli = [0x0000, 0x0000, 0x0000] :=
  ⟨by decide, ⟨by decide, by decide⟩, by decide, by decide, by decide, by decide, by decide, by decide, by decide⟩

theorem witness_OnlyRawPushesAreAuxiliary : AllPrimary (stateOne 0x1E 0) ∧ (stateOne 0x1E 0).len ≠ 0 :=
  ⟨⟨by decide, by decide⟩, by decide⟩

theorem witness_InputOperationFootprint :
    agentOf (.keydown 0xC8) = .input ∧ QueueInv stateS1 ∧ ∃ t, exec (.keydown 0xC8) stateS1 = .next t :=
  ⟨rfl, ⟨by decide, by decide⟩, _, rfl⟩

theorem witness_ArbiterDeassertsOneLine : stateFull.len ≠ 0 ∧ stateS1.len = 0 := by decide

/-- For NoInterruptIsEverRequested and TraceOnlyGrows. -/
theorem witness_NoInterruptIsEverRequested :
    let s : State := { stateS1 with stimuli := [0x1140] }
    s.cfg.arbLive = false ∧ NoLineAsserted s ∧ ∃ t, step s = .next t :=
  ⟨by decide, by simp [NoLineAsserted, stateS1, stateS0, State.wired, offer, State.reset, State.ofConfig], _, rfl⟩

theorem witness_LoadedSnapshotRestoresTheQueue :
    QueueInv stateFull ∧ (recordOf { stateFull with len := 257 }).length > 256 :=
  ⟨⟨by decide, by decide⟩, by decide⟩

/-- For StepKeepsTheInvariant and StepKeepsConfigurationAndBindings. -/
theorem witness_StepKeepsTheInvariant :
    let s : State := { stateS1 with stimuli := [0x1140] }
    BlockInv s ∧ s.boundTimer = true ∧ s.boundIrq = true ∧ ∃ t, step s = .next t :=
  ⟨⟨⟨by decide, by decide⟩, ⟨by decide, by decide⟩, .inl (by decide)⟩, by decide, by decide, _, rfl⟩

theorem witness_ConstructionMeetsTheInvariant : construct Config.default = .next State.reset := by rfl

/-- The clauses of ConstructionSetsEveryElement at the limits of `MEM_BYTES`. -/
theorem witness_ConstructionSetsEveryElement :
    (Config.ofMemory (2 ^ 25 - 1)).wf = true ∧ 2 ^ 25 ≤ (Config.ofMemory (2 ^ 25)).memBytes ∧
    (let c : Config := { Config.ofMemory 131071 with ramCode := 1 }; c.memBytes < 131072 ∧ c.ramCode ≠ 0) ∧
    (let c : Config := { Config.default with portBAddr := 0x60 };
      ¬ [c.portAAddr, c.portBAddr, c.portCAddr, c.portCmdAddr].Nodup) := by decide

end Sys2Proof.Tests
end

section
/-! PROOFS. The output trace only grows (spec/00_scope.md R10, spec/42_interrupt_arbiter.md R122). First what an operation
and a step can do to the state, said once; then one lemma per shared operation on the trace. -/

namespace Sys2Proof.Machine

/-! ### What a completed operation can do -/

/-- What a completed operation `i` makes of the state `s`, apart from the value it returns. -/
inductive Effect (i : Instr) (s : State) : State → Prop where
  | unchanged : Effect i s s
  | dataPortRead : Effect i s (readDataPort s).2
  | controlWrite (v : Byte) : Effect i s (writeControl v s)
  | modeWrite (f : BitVec 7) : Effect i s { s with mode := modeByte f }
  | statusWrite (b : Byte) : Effect i s { s with portC0 := b }
  | pushes : Effect i s (pushAll (pushesOf s.cfg.pauseCode i) s)
  | binding (k : Collaborator) : Effect i s (offer (some k) s)

/-- An operation that needs the block wired and completes has made the state it was to make. -/
theorem Effect.of_whenReady {i : Instr} {s u t : State} {r : Result} (e : Effect i s u)
    (h : whenReady s (u.returning r) = .next t) : ∃ u r, Effect i s u ∧ t = u.returning r :=
  ⟨u, r, e, (whenReady_next h).2⟩

/-- An operation that completes has one of the effects above, and then returns a value. -/
theorem exec_effect {i : Instr} {s t : State} (h : exec i s = .next t) :
    ∃ u r, Effect i s u ∧ t = u.returning r := by
  cases i with
  | rd8A => exact Effect.dataPortRead.of_whenReady h
  | wr8B v => exact (Effect.controlWrite v).of_whenReady h
  | modeset f => exact (Effect.modeWrite f).of_whenReady h
  | bitset _ n => exact (Effect.statusWrite _).of_whenReady h
  | bitclr _ n => exact (Effect.statusWrite _).of_whenReady h
  | keydown | keydownPause | keyup | qpush => exact Effect.pushes.of_whenReady h
  | bind k =>
    injection h with h
    exact ⟨_, _, .binding k, h.symm⟩
  | snapshot =>
    injection h with h
    exact ⟨_, _, .unchanged, h.symm⟩
  | rd8B | rd8C | rd8Cmd | rd8OtherLow | rd8OtherHigh | wr8A | wr8C | wr8OtherLow | wr8OtherHigh
  | rd16 | wr16 | rd32 | wr32 => exact Effect.unchanged.of_whenReady h

/-! ### What a step can do -/

/-- The operation fetched runs on the state in which its word no longer waits. -/
theorem fetch_run {s u : State} {i : Instr} (h : fetch s = .run i u) : ∃ ws, u = { s with stimuli := ws } := by
  unfold fetch at h
  split at h
  · cases h
  · split at h
    · cases h
      exact ⟨_, rfl⟩
    · cases h

/-- The turn gives an operation the state with at most the stimuli and the schedule changed. -/
theorem turn_run {s u : State} {i : Instr} (h : turn s = .run i u) :
    ∃ ws cs, u = { s with stimuli := ws, schedule := cs } := by
  unfold turn at h
  split at h
  · obtain ⟨ws, rfl⟩ := fetch_run h
    exact ⟨ws, s.schedule, rfl⟩
  · unfold interleave at h
    split at h
    · split at h
      · next hf =>
        obtain ⟨ws, rfl⟩ := fetch_run hf
        split at h <;> cases h
        exact ⟨ws, _, rfl⟩
      · cases h
    · cases h

/-- A step that completes is idle, runs an operation, or goes on with a key event. -/
theorem step_cases {s t : State} (h : step s = .next t) :
    t = s ∨ (∃ i ws cs, exec i { s with stimuli := ws, schedule := cs } = .next t) ∨
      (s.ready = true ∧ t = resumeInput s) := by
  unfold step at h
  cases hturn : turn s with
  | idle =>
    rw [hturn] at h
    injection h with h
    exact .inl h.symm
  | run i u =>
    obtain ⟨ws, cs, rfl⟩ := turn_run hturn
    rw [hturn] at h
    exact .inr (.inl ⟨i, ws, cs, h⟩)
  | input =>
    rw [hturn] at h
    exact .inr (.inr (whenReady_next h))
  | reject why w =>
    rw [hturn] at h
    cases h

/-! ### The trace under the shared operations -/

theorem trace_prefix_qWrite (d a : Byte) (s : State) : s.trace <+: (qWrite d a s).trace := by
  obtain ⟨-, heq⟩ | ⟨-, -, -, -, level, htrace, -⟩ := qWrite_cases d a s
  · rw [heq]
  · rw [htrace]
    exact List.prefix_append _ _

theorem trace_prefix_qRead (s : State) : s.trace <+: (qRead s).2.trace := by
  by_cases h : s.len = 0
  · rw [qRead_empty h]
  · rw [qRead_entry h]
    exact List.prefix_append _ _

theorem trace_prefix_pushEach (es : List Entry) (s : State) : s.trace <+: (pushEach es s).trace := by
  induction es generalizing s with
  | nil => exact List.prefix_rfl
  | cons e es ih => exact (trace_prefix_qWrite e.data e.aux s).trans (ih _)

theorem trace_prefix_pushAll (es : List Entry) (s : State) : s.trace <+: (pushAll es s).trace := by
  by_cases h : s.pending ++ es = []
  · rw [pushAll_nothing h]
  · obtain ⟨k, -, -, heq, -, -⟩ := pushAll_cases es s h
    rw [heq]
    exact trace_prefix_pushEach _ s

theorem trace_prefix_readDataPort (s : State) : s.trace <+: (readDataPort s).2.trace := by
  cases h : clrBit s.portB with
  | true => rw [readDataPort_config h]
  | false =>
    rw [readDataPort_queue h]
    exact trace_prefix_qRead s

theorem trace_prefix_writeControl (v : Byte) (s : State) : s.trace <+: (writeControl v s).trace := by
  have hgated : s.trace <+:
      (if clrBit v then qReset (emit (.timerGate gateChannel (gateBit v)) { s with portB := v })
        else emit (.timerGate gateChannel (gateBit v)) { s with portB := v }).trace := by
    split <;> exact List.prefix_append _ _
  cases h : clkhBit v with
  | true =>
    rw [writeControl_selfTest s h]
    exact hgated.trans (trace_prefix_qWrite _ _ _)
  | false =>
    rw [writeControl_quiet s h]
    exact hgated

@[simp] theorem offer_trace (k : Option Collaborator) (s : State) : (offer k s).trace = s.trace := by
  unfold offer
  split <;> rfl

/-! ### The trace under operations and steps -/

theorem Effect.trace_prefix {i : Instr} {s u : State} (e : Effect i s u) : s.trace <+: u.trace := by
  cases e with
  | unchanged | modeWrite | statusWrite => exact List.prefix_rfl
  | dataPortRead => exact trace_prefix_readDataPort s
  | controlWrite v => exact trace_prefix_writeControl v s
  | pushes => exact trace_prefix_pushAll _ s
  | binding k => rw [offer_trace]

theorem exec_trace_prefix {i : Instr} {s t : State} (h : exec i s = .next t) : s.trace <+: t.trace := by
  obtain ⟨u, r, e, rfl⟩ := exec_effect h
  exact e.trace_prefix

theorem step_trace_prefix {s t : State} (h : step s = .next t) : s.trace <+: t.trace := by
  obtain rfl | ⟨i, ws, cs, hexec⟩ | ⟨-, rfl⟩ := step_cases h
  · exact List.prefix_rfl
  · exact exec_trace_prefix (s := { s with stimuli := ws, schedule := cs }) hexec
  · exact trace_prefix_pushAll [] { s with schedule := s.schedule.tail }

/-- Settles O52: the trace after a step begins with the trace before it, whichever of its three kinds the step is. -/
theorem traceOnlyGrows : Obligations.TraceOnlyGrows := by
  intro s t h
  obtain ⟨es, hes⟩ := step_trace_prefix h
  exact ⟨es, hes.symm⟩

end Sys2Proof.Machine
end

section
/-! PROOFS. The statements about the state (spec/10_state.md): the step and what it runs, the constants and the wiring
(R16, R19, R31, R34), the invariant of queue and mode (R21, R25, R27, R28), and the hidden latch `portA[1]` (R16). -/

namespace Sys2Proof.Machine

/-! ### The step with no key event half done -/

theorem step_of_no_pending {s : State} (hp : s.pending = []) : step s = takeTurn s (fetch s) := by
  rw [step, turn, if_pos hp]

theorem fetch_of_no_stimuli {s : State} (h : s.stimuli = []) : fetch s = .idle := by
  rw [fetch, h]

theorem fetch_of_decode_ok {s : State} {w : StimWord} {ws : List StimWord} {i : Instr} (h : s.stimuli = w :: ws)
    (hd : decode s.cfg.pauseCode w = .ok i) : fetch s = .run i { s with stimuli := ws } := by
  simp only [fetch, h, hd]

theorem fetch_of_decode_error {s : State} {w : StimWord} {ws : List StimWord} {why : NotStimulus}
    (h : s.stimuli = w :: ws) (hd : decode s.cfg.pauseCode w = .error why) : fetch s = .reject why w := by
  simp only [fetch, h, hd]

/-- Settles O7: with nothing pending the turn is the fetched operation. -/
theorem stepRunsTheDecodedOperation : Obligations.StepRunsTheDecodedOperation := by
  intro s w ws i hp hs hd
  rw [step_of_no_pending hp, fetch_of_decode_ok hs hd]
  rfl

/-- Settles O8: with nothing pending the turn is idle where no word waits, and rejects a word that does not decode. -/
theorem stepWithNothingToRun : Obligations.StepWithNothingToRun := by
  intro s hp
  refine ⟨fun hs => ?_, fun w ws why hs hd => ?_⟩
  · rw [step_of_no_pending hp, fetch_of_no_stimuli hs]
    rfl
  · rw [step_of_no_pending hp, fetch_of_decode_error hs hd]
    rfl

/-! ### Constants and wiring -/

/-- The pushes of the input agent are single enqueues, with only the pending pushes and the schedule changed besides. -/
theorem pushAll_eq_pushEach (es : List Entry) (s : State) :
    ∃ es' ps cs, pushAll es s = { pushEach es' s with pending := ps, schedule := cs } := by
  by_cases h : s.pending ++ es = []
  · exact ⟨[], s.pending, s.schedule, pushAll_nothing h⟩
  · obtain ⟨k, -, -, heq, -, -⟩ := pushAll_cases es s h
    exact ⟨_, _, _, heq⟩

/-- What no step changes from `s` to `t`: the configuration and the two constant bytes stay as they are, and a bound
collaborator stays bound (R16, R19, R31, R34). -/
structure KeepsDevice (s t : State) : Prop where
  cfg : t.cfg = s.cfg
  portA0 : t.portA0 = s.portA0
  portC1 : t.portC1 = s.portC1
  boundTimer : s.boundTimer = true → t.boundTimer = true
  boundIrq : s.boundIrq = true → t.boundIrq = true

theorem KeepsDevice.refl (s : State) : KeepsDevice s s := ⟨rfl, rfl, rfl, id, id⟩

/-- Where the constants are unchanged, they are still the configured ones. -/
theorem KeepsDevice.constInv {s t : State} (h : KeepsDevice s t) (hs : ConstInv s) : ConstInv t := by
  obtain ⟨hA, hC⟩ := hs
  exact ⟨by rw [h.portA0, h.cfg, hA], by rw [h.portC1, h.cfg, hC]⟩

theorem keepsDevice_pushAll (es : List Entry) (s : State) : KeepsDevice s (pushAll es s) := by
  obtain ⟨es', ps, cs, heq⟩ := pushAll_eq_pushEach es s
  rw [heq]
  constructor <;> simp

theorem keepsDevice_offer (k : Option Collaborator) (s : State) : KeepsDevice s (offer k s) := by
  match k with
  | some .timer => exact ⟨rfl, rfl, rfl, fun _ => rfl, id⟩
  | some .irq => exact ⟨rfl, rfl, rfl, id, fun _ => rfl⟩
  | none => exact .refl s

theorem Effect.keepsDevice {i : Instr} {s u : State} (e : Effect i s u) : KeepsDevice s u := by
  cases e with
  | unchanged => exact .refl s
  | dataPortRead => constructor <;> simp
  | controlWrite v => constructor <;> simp
  | modeWrite | statusWrite => exact ⟨rfl, rfl, rfl, id, id⟩
  | pushes => exact keepsDevice_pushAll _ s
  | binding k => exact keepsDevice_offer (some k) s

theorem exec_keepsDevice {i : Instr} {s t : State} (h : exec i s = .next t) : KeepsDevice s t := by
  obtain ⟨u, r, e, rfl⟩ := exec_effect h
  exact { e.keepsDevice with }

theorem step_keepsDevice {s t : State} (h : step s = .next t) : KeepsDevice s t := by
  obtain rfl | ⟨i, ws, cs, hexec⟩ | ⟨-, rfl⟩ := step_cases h
  · exact .refl t
  · exact { exec_keepsDevice hexec with }
  · exact { keepsDevice_pushAll [] { s with schedule := s.schedule.tail } with }

/-- Settles O59: an idle step, an operation and a resumed key event each keep the device. -/
theorem stepKeepsConfigurationAndBindings : Obligations.StepKeepsConfigurationAndBindings := by
  intro s t h
  obtain ⟨hcfg, hA, hC, htimer, hirq⟩ := step_keepsDevice h
  exact ⟨hcfg, hA, hC, htimer, hirq⟩

/-! ### The occupancy and the cursors -/

/-- A cursor advances modulo 256 (R67 (f)). -/
theorem toNat_cursor_succ (x : Byte) : (x + 1).toNat = (x.toNat + 1) % 256 := BitVec.toNat_add x 1

/-- An enqueue counts an entry only where there is room for it (R27). -/
theorem qWrite_len_le (d a : Byte) {s : State} (h : s.len ≤ cap) : (qWrite d a s).len ≤ cap := by
  obtain ⟨-, heq⟩ | ⟨hroom, -, -, hlen, -⟩ := qWrite_cases d a s
  · rw [heq]
    exact h
  · rw [hlen]
    exact Nat.lt_of_le_of_ne h hroom

theorem queueInv_qWrite (d a : Byte) {s : State} (h : QueueInv s) : QueueInv (qWrite d a s) := by
  obtain ⟨hlen, hwp⟩ := h
  refine ⟨qWrite_len_le d a hlen, ?_⟩
  obtain ⟨-, heq⟩ | ⟨-, -, hwp', hlen', -⟩ := qWrite_cases d a s
  · rw [heq]
    exact hwp
  · rw [hwp', hlen', qWrite_rp, toNat_cursor_succ, hwp]
    omega

/-- A dequeue moves the read cursor on as it lowers the occupancy, so the write cursor stays right (R28). -/
theorem queueInv_qRead {s : State} (h : QueueInv s) : QueueInv (qRead s).2 := by
  by_cases hempty : s.len = 0
  · rw [qRead_empty hempty]
    exact h
  · obtain ⟨hlen, hwp⟩ := h
    rw [qRead_entry hempty]
    refine ⟨(Nat.sub_le _ _).trans hlen, ?_⟩
    simp only [arbDeassert_wp, arbDeassert_rp, arbDeassert_len, hwp, toNat_cursor_succ]
    omega

theorem queueInv_qReset (s : State) : QueueInv (qReset s) := ⟨Nat.zero_le _, rfl⟩

theorem queueInv_pushEach (es : List Entry) {s : State} (h : QueueInv s) : QueueInv (pushEach es s) := by
  induction es generalizing s with
  | nil => exact h
  | cons e es ih => exact ih (queueInv_qWrite e.data e.aux h)

theorem queueInv_pushAll (es : List Entry) {s : State} (h : QueueInv s) : QueueInv (pushAll es s) := by
  obtain ⟨es', ps, cs, heq⟩ := pushAll_eq_pushEach es s
  rw [heq]
  exact queueInv_pushEach es' h

theorem queueInv_readDataPort {s : State} (h : QueueInv s) : QueueInv (readDataPort s).2 := by
  cases hswitch : clrBit s.portB with
  | true =>
    rw [readDataPort_config hswitch]
    exact h
  | false =>
    rw [readDataPort_queue hswitch]
    exact queueInv_qRead h

theorem queueInv_writeControl (v : Byte) {s : State} (h : QueueInv s) : QueueInv (writeControl v s) := by
  have hcleared : QueueInv
      (if clrBit v then qReset (emit (.timerGate gateChannel (gateBit v)) { s with portB := v })
        else emit (.timerGate gateChannel (gateBit v)) { s with portB := v }) := by
    split
    · exact queueInv_qReset _
    · exact h
  cases hself : clkhBit v with
  | true =>
    rw [writeControl_selfTest s hself]
    exact queueInv_qWrite _ _ hcleared
  | false =>
    rw [writeControl_quiet s hself]
    exact hcleared

theorem queueInv_offer (k : Option Collaborator) {s : State} (h : QueueInv s) : QueueInv (offer k s) := by
  unfold offer
  split <;> exact h

/-- Settles O31: the full queue drops the byte, and any other has room for it. -/
theorem fullQueueDropsWrites : Obligations.FullQueueDropsWrites := by
  intro d a s
  exact ⟨qWrite_full d a, qWrite_len_le d a⟩

/-! ### The mode byte -/

theorem modeByte_bit7 (f : BitVec 7) : (modeByte f)[7] = true := by
  revert f
  decide

@[simp] theorem pushAll_mode (es : List Entry) (s : State) : (pushAll es s).mode = s.mode := by
  obtain ⟨es', ps, cs, heq⟩ := pushAll_eq_pushEach es s
  simp [heq]

@[simp] theorem offer_mode (k : Option Collaborator) (s : State) : (offer k s).mode = s.mode := by
  unfold offer
  split <;> rfl

/-- An operation leaves `mode` alone or writes a byte with bit 7 set (R21, D13). -/
theorem Effect.mode_cases {i : Instr} {s u : State} (e : Effect i s u) : u.mode = s.mode ∨ u.mode[7] = true := by
  cases e with
  | modeWrite f => exact .inr (modeByte_bit7 f)
  | unchanged | statusWrite => exact .inl rfl
  | dataPortRead => exact .inl (readDataPort_mode s)
  | controlWrite v => exact .inl (writeControl_mode v s)
  | pushes => exact .inl (pushAll_mode _ s)
  | binding k => exact .inl (offer_mode (some k) s)

/-! ### The invariant under operations and steps -/

theorem Effect.queueInv {i : Instr} {s u : State} (e : Effect i s u) (h : QueueInv s) : QueueInv u := by
  cases e with
  | unchanged | modeWrite | statusWrite => exact h
  | dataPortRead => exact queueInv_readDataPort h
  | controlWrite v => exact queueInv_writeControl v h
  | pushes => exact queueInv_pushAll _ h
  | binding k => exact queueInv_offer (some k) h

theorem Effect.modeInv {i : Instr} {s u : State} (e : Effect i s u) (h : ModeInv s) : ModeInv u := by
  obtain hsame | hset := e.mode_cases
  · unfold ModeInv
    rw [hsame, e.keepsDevice.cfg]
    exact h
  · exact .inr hset

theorem Effect.blockInv {i : Instr} {s u : State} (e : Effect i s u) (h : BlockInv s) : BlockInv u := by
  obtain ⟨hqueue, hconst, hmode⟩ := h
  exact ⟨e.queueInv hqueue, e.keepsDevice.constInv hconst, e.modeInv hmode⟩

theorem exec_blockInv {i : Instr} {s t : State} (h : exec i s = .next t) (hs : BlockInv s) : BlockInv t := by
  obtain ⟨u, r, e, rfl⟩ := exec_effect h
  exact e.blockInv hs

theorem blockInv_pushAll (es : List Entry) {s : State} (h : BlockInv s) : BlockInv (pushAll es s) := by
  obtain ⟨hqueue, hconst, hmode⟩ := h
  refine ⟨queueInv_pushAll es hqueue, (keepsDevice_pushAll es s).constInv hconst, ?_⟩
  unfold ModeInv
  rw [pushAll_mode, (keepsDevice_pushAll es s).cfg]
  exact hmode

/-- Settles O56: an idle step changes nothing, an operation keeps the invariant by its effect, and going on with a key
event only enqueues. The invariant reads neither the stimuli nor the schedule. -/
theorem stepKeepsTheInvariant : Obligations.StepKeepsTheInvariant := by
  intro s t hs h
  obtain rfl | ⟨i, ws, cs, hexec⟩ | ⟨-, rfl⟩ := step_cases h
  · exact hs
  · exact exec_blockInv (s := { s with stimuli := ws, schedule := cs }) hexec hs
  · exact blockInv_pushAll [] (s := { s with schedule := s.schedule.tail }) hs

/-! ### Construction -/

theorem construct_next {c : Config} {s : State} (h : construct c = .next s) : s = State.ofConfig c := by
  unfold construct at h
  split at h
  · injection h with h
    exact h.symm
  · cases h

theorem blockInv_ofConfig (c : Config) : BlockInv (State.ofConfig c) :=
  ⟨⟨Nat.zero_le _, rfl⟩, ⟨rfl, rfl⟩, .inl rfl⟩

theorem noLineAsserted_ofConfig (c : Config) : NoLineAsserted (State.ofConfig c) := by
  simp [NoLineAsserted, State.ofConfig]

theorem construct_default : construct Config.default = .next State.reset := if_pos (by decide)

/-- Settles O57: every constructed state is `State.ofConfig` of its configuration, and reset is that of the defaults. -/
theorem constructionMeetsTheInvariant : Obligations.ConstructionMeetsTheInvariant := by
  refine ⟨fun c s h => ?_, blockInv_ofConfig Config.default, construct_default⟩
  rw [construct_next h]
  exact ⟨blockInv_ofConfig c, noLineAsserted_ofConfig c, rfl, rfl⟩

/-! ### The hidden latch -/

/-- The state with another latched byte (R16). -/
def State.withLatch (b : Byte) (s : State) : State := { s with portA1 := b }

theorem qWrite_withLatch (d a b : Byte) (s : State) : qWrite d a (s.withLatch b) = (qWrite d a s).withLatch b := by
  by_cases h : s.len = cap
  · rw [qWrite_full d a h, qWrite_full d a (s := s.withLatch b) h]
  · rw [qWrite_room d a h, qWrite_room d a (s := s.withLatch b) h]
    rfl

theorem qRead_withLatch (b : Byte) (s : State) :
    qRead (s.withLatch b) = ((qRead s).1, (qRead s).2.withLatch b) := by
  by_cases h : s.len = 0
  · rw [qRead_empty h, qRead_empty (s := s.withLatch b) h]
    rfl
  · rw [qRead_entry h, qRead_entry (s := s.withLatch b) h]
    rfl

theorem drain_withLatch (b : Byte) (es : List Entry) (s : State) :
    drain es (s.withLatch b) = (drain es s).withLatch b := by
  induction es generalizing s with
  | nil => rfl
  | cons e es ih =>
    by_cases h : s.schedule.head? = some true
    · rw [drain, drain, if_pos h, if_pos (show (s.withLatch b).schedule.head? = some true from h)]
      rfl
    · rw [drain, drain, if_neg h, if_neg (show ¬ (s.withLatch b).schedule.head? = some true from h), ← ih,
        ← qWrite_withLatch]
      rfl

/-- The first waiting push is made at once and the schedule rules the others. -/
theorem pushAll_of_cons {es rest : List Entry} {e : Entry} {s : State} (h : s.pending ++ es = e :: rest) :
    pushAll es s = drain rest (qWrite e.data e.aux { s with pending := [] }) := by
  rw [pushAll, h]

theorem pushAll_withLatch (b : Byte) (es : List Entry) (s : State) :
    pushAll es (s.withLatch b) = (pushAll es s).withLatch b := by
  cases h : s.pending ++ es with
  | nil => rw [pushAll_nothing h, pushAll_nothing (s := s.withLatch b) h]
  | cons e rest =>
    rw [pushAll_of_cons h, pushAll_of_cons (s := s.withLatch b) h, ← drain_withLatch, ← qWrite_withLatch]
    rfl

theorem writeControl_withLatch (v b : Byte) (s : State) :
    writeControl v (s.withLatch b) = (writeControl v s).withLatch b := by
  cases hself : clkhBit v with
  | true =>
    rw [writeControl_selfTest _ hself, writeControl_selfTest _ hself, ← qWrite_withLatch]
    split <;> rfl
  | false =>
    rw [writeControl_quiet _ hself, writeControl_quiet _ hself]
    split <;> rfl

/-- A data-port read delivers the same byte whatever the latch held; it keeps the latch or overwrites it (R81). -/
theorem readDataPort_withLatch (b : Byte) (s : State) :
    ∃ c, readDataPort (s.withLatch b) = ((readDataPort s).1, (readDataPort s).2.withLatch c) := by
  cases h : clrBit s.portB with
  | true => exact ⟨b, by rw [readDataPort_config h, readDataPort_config (s := s.withLatch b) h]; rfl⟩
  | false =>
    refine ⟨(qRead s).1, ?_⟩
    rw [readDataPort_queue h, readDataPort_queue (s := s.withLatch b) h, qRead_withLatch]
    rfl

/-- The wiring precondition does not look at the latch: if the operation made `u`, and makes `u` up to the latch from a
state of another latch, then it completes there too. -/
theorem whenReady_withLatch {s t u v : State} {r : Result} {c : Byte} (b : Byte)
    (h : whenReady s (u.returning r) = .next t) (hv : v = u.withLatch c) :
    ∃ c, whenReady (s.withLatch b) (v.returning r) = .next (t.withLatch c) := by
  obtain ⟨hready, rfl⟩ := whenReady_next h
  rw [hv]
  exact ⟨c, whenReady_ready _ hready⟩

/-- An operation completes from any latch, in the same state up to the latch. -/
theorem exec_withLatch {i : Instr} {s t : State} (b : Byte) (h : exec i s = .next t) :
    ∃ c, exec i (s.withLatch b) = .next (t.withLatch c) := by
  cases i with
  | rd8A =>
    obtain ⟨c, hread⟩ := readDataPort_withLatch b s
    show ∃ c, whenReady _ (State.returning (.byte (readDataPort _).1) (readDataPort _).2) = _
    rw [hread]
    exact whenReady_withLatch b h rfl
  | wr8B v => exact whenReady_withLatch b h (writeControl_withLatch v b s)
  | keydown | keydownPause | keyup | qpush => exact whenReady_withLatch b h (pushAll_withLatch b _ s)
  | bind k =>
    injection h with h
    refine ⟨b, ?_⟩
    subst h
    cases k <;> rfl
  | snapshot =>
    injection h with h
    exact ⟨b, by rw [← h]; rfl⟩
  | rd8B | rd8C | rd8Cmd | rd8OtherLow | rd8OtherHigh | wr8A | wr8C | wr8OtherLow | wr8OtherHigh
  | rd16 | wr16 | rd32 | wr32 | modeset | bitset | bitclr => exact whenReady_withLatch (c := b) b h rfl

/-- Settles O30: the two runs end in states that differ in the latch alone. -/
theorem latchedByteIsHidden : Obligations.LatchedByteIsHidden := by
  intro i s t b h
  obtain ⟨c, hexec⟩ := exec_withLatch b h
  exact ⟨t.withLatch c, hexec, rfl, rfl, rfl⟩

end Sys2Proof.Machine
end

section
/-! PROOFS. The statements about memory and ordering (spec/20_memory.md): key events with other agents' operations
between their pushes (R50, R51), bus accesses by address and width (R41, R56), and wide accesses (R43). -/

namespace Sys2Proof.Machine

/-! ### The turn between two pushes of a key event -/

theorem step_of_pending {s : State} (hp : s.pending ≠ []) : step s = takeTurn s (interleave s) := by
  rw [step, turn, if_neg hp]

/-- Where the point is given away, another agent's operation that waits has the turn (R51). -/
theorem interleave_of_fetch_run {s t : State} {i : Instr} (hc : s.schedule.head? = some true)
    (hf : fetch { s with schedule := s.schedule.tail } = .run i t) (hi : agentOf i ≠ .input) :
    interleave s = .run i t := by
  simp only [interleave, if_pos hc, hf, if_neg hi]

/-- Where the point is not given away, the input agent has the turn (R51). -/
theorem interleave_of_not_granted {s : State} (hc : s.schedule.head? ≠ some true) : interleave s = .input :=
  if_neg hc

/-- An operation of another agent that is fetched was waiting. -/
theorem otherAgentWaits_of_fetch_run {s t : State} {i : Instr} (h : fetch s = .run i t) (hi : agentOf i ≠ .input) :
    OtherAgentWaits s := by
  unfold fetch at h
  split at h
  · cases h
  · next w ws hs =>
    split at h
    · next hd =>
      cases h
      exact ⟨w, ws, i, hs, hd, hi⟩
    · cases h

/-- Where no other agent waits, the input agent has the turn, whatever the schedule says (log 22). -/
theorem interleave_of_nobody_waits {s : State} (hw : ¬ OtherAgentWaits s) : interleave s = .input := by
  unfold interleave
  split
  · split
    · next hf =>
      split
      · rfl
      · next hi => exact absurd (otherAgentWaits_of_fetch_run hf hi) hw
    · rfl
  · rfl

/-- Settles O9: the waiting operation is fetched on the state in which the choice of the schedule is used up. -/
theorem stepRunsAnotherAgentBetweenPushes : Obligations.StepRunsAnotherAgentBetweenPushes := by
  intro s cs w ws i hp hc hs hd hi
  have hgranted : s.schedule.head? = some true := by rw [hc]; rfl
  have hf := fetch_of_decode_ok (s := { s with schedule := s.schedule.tail }) hs hd
  rw [step_of_pending hp, interleave_of_fetch_run hgranted hf hi, hc]
  rfl

/-! ### The input agent's pushes under a schedule -/

/-- Going on with a key event uses up the choice at this point, so before the push with index `j` stands the choice
with index `j` (R51). -/
theorem resumeInput_cases (s : State) (hp : s.pending ≠ []) :
    ∃ k, 1 ≤ k ∧ k ≤ s.pending.length ∧
      resumeInput s = { pushEach (s.pending.take k) s with
        pending := s.pending.drop k, schedule := s.schedule.drop k, result := .none } ∧
      (k < s.pending.length → s.schedule[k]? = some true) ∧ ∀ j, 1 ≤ j → j < k → s.schedule[j]? ≠ some true := by
  obtain ⟨k, hpos, hle, heq, hstop, hgo⟩ := pushAll_cases [] { s with schedule := s.schedule.tail } (by simpa using hp)
  simp only [List.append_nil, List.drop_tail, List.getElem?_tail, Nat.sub_add_cancel hpos] at hle heq hstop hgo
  refine ⟨k, hpos, hle, ?_, hstop, fun j hj hjk => ?_⟩
  · rw [resumeInput, heq, pushEach_model (s.pending.take k) s s.pending s.schedule.tail]
    rfl
  · have := hgo (j - 1) (by omega)
    rwa [Nat.sub_add_cancel hj] at this

/-- Settles O10: with the point kept, or nobody to take it, the turn is the input agent's, which resumes its pushes. -/
theorem stepGoesOnWithTheKeyEvent : Obligations.StepGoesOnWithTheKeyEvent := by
  intro s hready hp hkeeps
  have hturn : interleave s = .input := hkeeps.elim interleave_of_not_granted interleave_of_nobody_waits
  obtain ⟨k, hpos, hle, heq, hstop, hgo⟩ := resumeInput_cases s hp
  refine ⟨k, hpos, hle, ?_, hstop, hgo⟩
  rw [step_of_pending hp, hturn, ← heq]
  exact whenReady_ready _ hready

/-- An operation of the input agent makes its pushes, after those still pending, and returns nothing. -/
theorem exec_of_input {i : Instr} (s : State) (hi : agentOf i = .input) :
    exec i s = whenReady s ((pushAll (pushesOf s.cfg.pauseCode i) s).returning .none) := by
  cases i with
  | keydown | keydownPause | keyup | qpush => rfl
  | _ => cases hi

theorem pressBytes_ne_nil (pause c : Byte) : pressBytes pause c ≠ [] := by
  unfold pressBytes
  split
  · exact List.cons_ne_nil _ _
  · exact List.append_ne_nil_of_right_ne_nil _ (List.cons_ne_nil _ _)

theorem releaseBytes_ne_nil (c : Byte) : releaseBytes c ≠ [] :=
  List.append_ne_nil_of_right_ne_nil _ (List.cons_ne_nil _ _)

theorem keyEntries_ne_nil {bs : List Byte} (h : bs ≠ []) : keyEntries bs ≠ [] := mt List.map_eq_nil_iff.mp h

/-- Every operation of the input agent has something to push. -/
theorem pushesOf_ne_nil (pause : Byte) {i : Instr} (hi : agentOf i = .input) : pushesOf pause i ≠ [] := by
  cases i with
  | keydown c => exact keyEntries_ne_nil (pressBytes_ne_nil pause c)
  | keydownPause => exact keyEntries_ne_nil (List.cons_ne_nil _ _)
  | keyup c => exact keyEntries_ne_nil (releaseBytes_ne_nil c)
  | qpush => exact List.cons_ne_nil _ _
  | _ => cases hi

/-- Settles O43: the four operations differ in their pushes alone, and `pushAll_cases` says how far those get. -/
theorem keyEventUnderAnySchedule : Obligations.KeyEventUnderAnySchedule := by
  intro i s hi hready es
  obtain ⟨k, hpos, hle, heq, hstop, hgo⟩ := pushAll_cases (pushesOf s.cfg.pauseCode i) s
    (List.append_ne_nil_of_right_ne_nil _ (pushesOf_ne_nil _ hi))
  refine ⟨k, hpos, hle, ?_, hstop, hgo⟩
  rw [exec_of_input s hi, whenReady_ready _ hready, heq]
  rfl

/-! ### The port select of an address -/

theorem ports_nodup_of_wf {c : Config} (h : c.wf = true) :
    [c.portAAddr, c.portBAddr, c.portCAddr, c.portCmdAddr].Nodup := by
  simp only [Config.wf, Bool.and_eq_true, decide_eq_true_eq] at h
  obtain ⟨-, hnodup⟩ := h
  exact hnodup

/-- The four addresses are distinct, so each selects its own port (R41). -/
theorem selectOf_ports {c : Config} (h : c.wf = true) :
    selectOf c c.portAAddr = .a ∧ selectOf c c.portBAddr = .b ∧
      selectOf c c.portCAddr = .c ∧ selectOf c c.portCmdAddr = .cmd := by
  have hnodup := ports_nodup_of_wf h
  simp only [List.nodup_cons, List.mem_cons, List.not_mem_nil, or_false, not_or] at hnodup
  obtain ⟨⟨hAB, hAC, hACmd⟩, ⟨hBC, hBCmd⟩, hCCmd, -⟩ := hnodup
  refine ⟨if_pos rfl, ?_, ?_, ?_⟩
  · rw [selectOf, if_neg (Ne.symm hAB), if_pos rfl]
  · rw [selectOf, if_neg (Ne.symm hAC), if_neg (Ne.symm hBC), if_pos rfl]
  · rw [selectOf, if_neg (Ne.symm hACmd), if_neg (Ne.symm hBCmd), if_neg (Ne.symm hCCmd), if_pos rfl]

theorem selectOf_other {c : Config} {a : Nat} (h : a ∉ [c.portAAddr, c.portBAddr, c.portCAddr, c.portCmdAddr]) :
    selectOf c a = .other 4 := by
  simp only [List.mem_cons, List.not_mem_nil, or_false, not_or] at h
  obtain ⟨hA, hB, hC, hCmd⟩ := h
  rw [selectOf, if_neg hA, if_neg hB, if_neg hC, if_neg hCmd]

/-! ### The operation of an access -/

section

variable (a n : Nat) (s : State)

theorem busRead_byte : busRead a 1 s = exec (byteRead (selectOf s.cfg a)) s := rfl

theorem busRead_half : busRead a 2 s = exec (.rd16 (selectOf s.cfg a)) s := rfl

theorem busRead_wide : busRead a 4 s = exec (.rd32 (selectOf s.cfg a)) s := rfl

theorem busWrite_byte : busWrite a 1 n s = exec (byteWrite (BitVec.ofNat 8 n) (selectOf s.cfg a)) s := rfl

theorem busWrite_half : busWrite a 2 n s = exec (.wr16 (selectOf s.cfg a) (BitVec.ofNat 8 n)) s := rfl

theorem busWrite_wide : busWrite a 4 n s = exec (.wr32 (selectOf s.cfg a) (BitVec.ofNat 8 n)) s := rfl

end

theorem readOp_badWidth (c : Config) (a : Nat) {m : Nat} (h : m ∉ [1, 2, 4]) : readOp c a m = none := by
  unfold readOp
  split
  iterate 3 exact absurd (by decide) h
  rfl

theorem writeOp_badWidth (c : Config) (a n : Nat) {m : Nat} (h : m ∉ [1, 2, 4]) : writeOp c a m n = none := by
  unfold writeOp
  split
  iterate 3 exact absurd (by decide) h
  rfl

/-- A width other than 1, 2 or 4 reaches no operation (R56, log 19). -/
theorem busRead_badWidth (a : Nat) {m : Nat} (s : State) (h : m ∉ [1, 2, 4]) :
    busRead a m s = .refused (.badWidth m) := by
  rw [busRead, readOp_badWidth _ _ h, accessOp]

theorem busWrite_badWidth (a n : Nat) {m : Nat} (s : State) (h : m ∉ [1, 2, 4]) :
    busWrite a m n s = .refused (.badWidth m) := by
  rw [busWrite, writeOp_badWidth _ _ _ h, accessOp]

/-- Settles O27: each access is the operation of its width at the port its address selects. -/
theorem busAccessReachesTheSelectedPort : Obligations.BusAccessReachesTheSelectedPort := by
  intro s hwf
  obtain ⟨hA, hB, hC, hCmd⟩ := selectOf_ports hwf
  refine ⟨⟨hA, hB, hC, hCmd⟩, ⟨?_, ?_, ?_, ?_⟩, fun n => ⟨?_, ?_, ?_, ?_⟩, fun a n ha => ?_,
    fun a n => ⟨busRead_half a s, busRead_wide a s, busWrite_half a n s, busWrite_wide a n s⟩,
    fun a m n hm => ⟨busRead_badWidth a s hm, busWrite_badWidth a n s hm⟩⟩
  · rw [busRead_byte, hA, byteRead]
  · rw [busRead_byte, hB, byteRead]
  · rw [busRead_byte, hC, byteRead]
  · rw [busRead_byte, hCmd, byteRead]
  · rw [busWrite_byte, hA, byteWrite]
  · rw [busWrite_byte, hB, byteWrite]
  · rw [busWrite_byte, hC, byteWrite]
  · rw [busWrite_byte, hCmd, byteWrite]
  · have hother := selectOf_other ha
    refine ⟨hother, ?_, ?_⟩
    · rw [busRead_byte, hother]
      rfl
    · rw [busWrite_byte, hother]
      rfl

/-! ### Wide accesses -/

section

variable (p : Port) (v : Byte) {s : State} (h : s.ready = true)

include h

theorem exec_rd16_ready : exec (.rd16 p) s = .next (s.returning (.half 0)) := whenReady_ready _ h

theorem exec_rd32_ready : exec (.rd32 p) s = .next (s.returning (.wide 0)) := whenReady_ready _ h

theorem exec_wr16_ready : exec (.wr16 p v) s = .next (s.returning .none) := whenReady_ready _ h

theorem exec_wr32_ready : exec (.wr32 p v) s = .next (s.returning .none) := whenReady_ready _ h

end

/-- Settles O20: the wide operations never look at the port, so neither do the wide accesses at an address. -/
theorem wideAccessesReturnOrIgnoreZero : Obligations.WideAccessesReturnOrIgnoreZero := by
  intro p v s h
  refine ⟨exec_rd16_ready p h, exec_rd32_ready p h, exec_wr16_ready p v h, exec_wr32_ready p v h,
    fun a n => ⟨?_, ?_, ?_, ?_⟩⟩
  · exact (busRead_half a s).trans (exec_rd16_ready _ h)
  · exact (busRead_wide a s).trans (exec_rd32_ready _ h)
  · exact (busWrite_half a n s).trans (exec_wr16_ready _ _ h)
  · exact (busWrite_wide a n s).trans (exec_wr32_ready _ _ h)

end Sys2Proof.Machine
end

section
/-! PROOFS. The statements about the stimulus word (spec/30_encoding.md): the two round trips (R73), the words refused
(R73), the rows of the table (R75) and the worked encodings (R74). First the decoder's operands, each with the pattern of
bits it comes from; then the decoder by `OP`. -/

namespace Sys2Proof

/-! ### Port selects -/

/-- The select field is a port's own number or one of the two patterns `01ss` and `1sss` of R75. -/
theorem select_cases (sel : BitVec 4) :
    sel = 0 ∨ sel = 1 ∨ sel = 2 ∨ sel = 3 ∨ (∃ s : BitVec 2, sel = (1#2) ++ s) ∨ ∃ s : BitVec 3, sel = (1#1) ++ s := by
  revert sel
  decide

theorem exists_low_of_mask {sel : BitVec 4} (h : sel &&& 0xC = 0x4) : ∃ s : BitVec 2, sel = (1#2) ++ s := by
  revert sel
  decide

theorem exists_high_of_mask {sel : BitVec 4} (h : sel &&& 0x8 = 0x8) : ∃ s : BitVec 3, sel = (1#1) ++ s := by
  revert sel
  decide

theorem selOfPort_portOfSel (sel : BitVec 4) : selOfPort (portOfSel sel) = sel := by
  revert sel
  decide

theorem portOfSel_wellFormed (sel : BitVec 4) : (portOfSel sel).wellFormed = true := by
  revert sel
  decide

theorem portOfSel_other {k : BitVec 4} (h : 4 ≤ k.toNat) : portOfSel k = .other k := by
  revert k
  decide

theorem portOfSel_selOfPort {p : Port} (h : p.wellFormed = true) : portOfSel (selOfPort p) = p := by
  cases p with
  | a | b | c | cmd => rfl
  | other k => exact portOfSel_other (of_decide_eq_true h)

/-- The two patterns of `OTHER` are told apart by bit 3, and the bits below are the operand (R75). -/
theorem portOfSel_low (s : BitVec 2) :
    portOfSel ((1#2) ++ s) = .other ((1#2) ++ s) ∧ ((1#2) ++ s : BitVec 4)[3] = false ∧
      ((1#2) ++ s : BitVec 4).extractLsb' 0 2 = s := by
  revert s
  decide

theorem portOfSel_high (s : BitVec 3) :
    portOfSel ((1#1) ++ s) = .other ((1#1) ++ s) ∧ ((1#1) ++ s : BitVec 4)[3] = true ∧
      ((1#1) ++ s : BitVec 4).extractLsb' 0 3 = s := by
  revert s
  decide

theorem byteRead_low (s : BitVec 2) : byteRead (portOfSel ((1#2) ++ s)) = .rd8OtherLow s := by
  obtain ⟨hport, hbit, hoperand⟩ := portOfSel_low s
  simp [hport, byteRead, hbit, hoperand]

theorem byteRead_high (s : BitVec 3) : byteRead (portOfSel ((1#1) ++ s)) = .rd8OtherHigh s := by
  obtain ⟨hport, hbit, hoperand⟩ := portOfSel_high s
  simp [hport, byteRead, hbit, hoperand]

theorem byteWrite_low (s : BitVec 2) (v : Byte) : byteWrite v (portOfSel ((1#2) ++ s)) = .wr8OtherLow s v := by
  obtain ⟨hport, hbit, hoperand⟩ := portOfSel_low s
  simp [hport, byteWrite, hbit, hoperand]

theorem byteWrite_high (s : BitVec 3) (v : Byte) : byteWrite v (portOfSel ((1#1) ++ s)) = .wr8OtherHigh s v := by
  obtain ⟨hport, hbit, hoperand⟩ := portOfSel_high s
  simp [hport, byteWrite, hbit, hoperand]

/-! ### Command bytes -/

theorem exists_modeByte_of_mask {v : Byte} (h : v &&& 0x80 = 0x80) : ∃ f, v = modeByte f := by
  refine ⟨v.extractLsb' 0 7, ?_⟩
  revert v
  decide

theorem exists_bsrByte_set_of_mask {v : Byte} (h : v &&& 0x81 = 0x01) : ∃ x n, v = bsrByte x n 1 := by
  refine ⟨v.extractLsb' 4 3, v.extractLsb' 1 3, ?_⟩
  revert v
  decide

theorem exists_bsrByte_clear_of_mask {v : Byte} (h : v &&& 0x81 = 0x00) : ∃ x n, v = bsrByte x n 0 := by
  refine ⟨v.extractLsb' 4 3, v.extractLsb' 1 3, ?_⟩
  revert v
  decide

/-- Every command byte is of format `M` or of format `BSR` with `S` set or clear (R61, R62, R68). -/
theorem commandByte_cases (v : Byte) :
    (∃ f, v = modeByte f) ∨ (∃ x n, v = bsrByte x n 1) ∨ ∃ x n, v = bsrByte x n 0 := by
  have hmask : ∀ v : Byte, v &&& 0x80 = 0x80 ∨ v &&& 0x81 = 0x01 ∨ v &&& 0x81 = 0x00 := by decide
  exact (hmask v).imp exists_modeByte_of_mask
    (Or.imp exists_bsrByte_set_of_mask exists_bsrByte_clear_of_mask)

theorem commandInstr_modeByte (f : BitVec 7) : commandInstr (modeByte f) = .modeset f := by
  revert f
  decide

theorem commandInstr_bsrByte_set (x n : BitVec 3) : commandInstr (bsrByte x n 1) = .bitset x n := by
  revert x n
  decide

theorem commandInstr_bsrByte_clear (x n : BitVec 3) : commandInstr (bsrByte x n 0) = .bitclr x n := by
  revert x n
  decide

/-! ### Fields that must be zero -/

theorem mustBeZero_ok {n : Nat} {why : NotStimulus} {f : BitVec n} {i j : Instr}
    (h : mustBeZero why f i = .ok j) : f = 0 ∧ j = i := by
  unfold mustBeZero at h
  split at h
  · next hf =>
    injection h with h
    exact ⟨hf, h.symm⟩
  · cases h

/-- A field decoder's answer that is an operation is no refusal. -/
theorem not_error_of_ok (i : Instr) : ¬ ∃ why : NotStimulus, (.ok i : Except NotStimulus Instr) = .error why := by
  rintro ⟨_, h⟩
  cases h

theorem mustBeZero_error_iff {n : Nat} (why : NotStimulus) (f : BitVec n) (i : Instr) :
    (∃ why', mustBeZero why f i = .error why') ↔ f.toNat ≠ 0 := by
  by_cases hf : f = 0
  · subst hf
    exact iff_of_false (not_error_of_ok i) (by simp)
  · exact iff_of_true ⟨why, if_neg hf⟩ (mt (BitVec.eq_of_toNat_eq (y := 0#n)) hf)

/-! ### The operation field -/

/-- `OP` names one of eleven operations or is free (R73). -/
theorem op_cases (op : BitVec 4) :
    op = 0 ∨ op = 1 ∨ op = 2 ∨ op = 3 ∨ op = 4 ∨ op = 5 ∨ op = 6 ∨ op = 7 ∨ op = 8 ∨ op = 9 ∨ op = 10 ∨
      11 ≤ op.toNat := by
  revert op
  decide

theorem decodeFields_reserved (pause : Byte) {op : BitVec 4} (sel : BitVec 4) (data : Byte) (h : 11 ≤ op.toNat) :
    decodeFields pause op sel data = .error .reservedOp := by
  unfold decodeFields
  split
  case h_12 => rfl
  all_goals omega

/-! ### Decoding an encoded operation -/

/-- A word whose fields decode to `j` decodes to whatever `j` equals. -/
theorem decode_wordOf_of_eq {pause : Byte} {op sel : BitVec 4} {data : Byte} {i j : Instr}
    (hfields : decodeFields pause op sel data = .ok j) (h : j = i) : decode pause (wordOf op sel data) = .ok i := by
  rw [decode_wordOf, hfields, h]

/-- Settles O1: the decoder takes each operation from the fields the encoder writes it to. -/
theorem decodeInvertsEncode : Obligations.DecodeInvertsEncode := by
  intro pause i hwf
  cases i with
  | rd8A | rd8B | rd8C | rd8Cmd | wr8A | wr8B | wr8C | keyup | qpush | snapshot => exact decode_wordOf pause _ _ _
  | rd8OtherLow s => exact decode_wordOf_of_eq rfl (byteRead_low s)
  | rd8OtherHigh s => exact decode_wordOf_of_eq rfl (byteRead_high s)
  | modeset f => exact decode_wordOf_of_eq rfl (commandInstr_modeByte f)
  | bitset x n => exact decode_wordOf_of_eq rfl (commandInstr_bsrByte_set x n)
  | bitclr x n => exact decode_wordOf_of_eq rfl (commandInstr_bsrByte_clear x n)
  | wr8OtherLow s v => exact decode_wordOf_of_eq rfl (byteWrite_low s v)
  | wr8OtherHigh s v => exact decode_wordOf_of_eq rfl (byteWrite_high s v)
  | rd16 p => exact decode_wordOf_of_eq rfl (congrArg Instr.rd16 (portOfSel_selOfPort hwf))
  | wr16 p v => exact decode_wordOf_of_eq rfl (congrArg (Instr.wr16 · v) (portOfSel_selOfPort hwf))
  | rd32 p => exact decode_wordOf_of_eq rfl (congrArg Instr.rd32 (portOfSel_selOfPort hwf))
  | wr32 p v => exact decode_wordOf_of_eq rfl (congrArg (Instr.wr32 · v) (portOfSel_selOfPort hwf))
  | keydown c => exact decode_wordOf_of_eq rfl (if_neg (of_decide_eq_true hwf))
  | keydownPause => exact decode_wordOf_of_eq rfl (if_pos rfl)
  | bind k => cases k <;> exact decode_wordOf pause _ _ _

/-! ### Encoding a decoded word -/

/-- The word `w` stands for the well-formed operation `i`. -/
def IsWordOf (pause : Byte) (i : Instr) (w : StimWord) : Prop := encode pause i = w ∧ i.wellFormed pause = true

theorem IsWordOf.decode_eq {pause : Byte} {i : Instr} {w : StimWord} (h : IsWordOf pause i w) :
    decode pause w = .ok i := by
  obtain ⟨rfl, hwf⟩ := h
  exact decodeInvertsEncode pause i hwf

theorem isWordOf_byteRead (pause : Byte) (sel : BitVec 4) :
    IsWordOf pause (byteRead (portOfSel sel)) (wordOf 0 sel 0) := by
  obtain rfl | rfl | rfl | rfl | ⟨s, rfl⟩ | ⟨s, rfl⟩ := select_cases sel
  iterate 4 exact ⟨rfl, rfl⟩
  · rw [byteRead_low]
    exact ⟨rfl, rfl⟩
  · rw [byteRead_high]
    exact ⟨rfl, rfl⟩

theorem isWordOf_commandInstr (pause v : Byte) : IsWordOf pause (commandInstr v) (wordOf 1 3 v) := by
  obtain ⟨f, rfl⟩ | ⟨x, n, rfl⟩ | ⟨x, n, rfl⟩ := commandByte_cases v
  · rw [commandInstr_modeByte]
    exact ⟨rfl, rfl⟩
  · rw [commandInstr_bsrByte_set]
    exact ⟨rfl, rfl⟩
  · rw [commandInstr_bsrByte_clear]
    exact ⟨rfl, rfl⟩

theorem isWordOf_byteWrite (pause : Byte) (sel : BitVec 4) (v : Byte) :
    IsWordOf pause (byteWrite v (portOfSel sel)) (wordOf 1 sel v) := by
  obtain rfl | rfl | rfl | rfl | ⟨s, rfl⟩ | ⟨s, rfl⟩ := select_cases sel
  iterate 3 exact ⟨rfl, rfl⟩
  · exact isWordOf_commandInstr pause v
  · rw [byteWrite_low]
    exact ⟨rfl, rfl⟩
  · rw [byteWrite_high]
    exact ⟨rfl, rfl⟩

section

variable (pause : Byte) (sel : BitVec 4) (v : Byte)

theorem isWordOf_rd16 : IsWordOf pause (.rd16 (portOfSel sel)) (wordOf 2 sel 0) :=
  ⟨congrArg (wordOf 2 · 0) (selOfPort_portOfSel sel), portOfSel_wellFormed sel⟩

theorem isWordOf_wr16 : IsWordOf pause (.wr16 (portOfSel sel) v) (wordOf 3 sel v) :=
  ⟨congrArg (wordOf 3 · v) (selOfPort_portOfSel sel), portOfSel_wellFormed sel⟩

theorem isWordOf_rd32 : IsWordOf pause (.rd32 (portOfSel sel)) (wordOf 4 sel 0) :=
  ⟨congrArg (wordOf 4 · 0) (selOfPort_portOfSel sel), portOfSel_wellFormed sel⟩

theorem isWordOf_wr32 : IsWordOf pause (.wr32 (portOfSel sel) v) (wordOf 5 sel v) :=
  ⟨congrArg (wordOf 5 · v) (selOfPort_portOfSel sel), portOfSel_wellFormed sel⟩

end

theorem isWordOf_keydown {pause c : Byte} (h : c ≠ pause) : IsWordOf pause (.keydown c) (wordOf 6 0 c) :=
  ⟨rfl, decide_eq_true h⟩

/-- The pause row is taken first, so a plain key press never carries the sentinel (R75). -/
theorem isWordOf_pressInstr (pause c : Byte) : IsWordOf pause (pressInstr pause c) (wordOf 6 0 c) := by
  unfold pressInstr
  split
  · next h =>
    subst h
    exact ⟨rfl, rfl⟩
  · next h => exact isWordOf_keydown h

theorem isWordOf_bindOfSel {pause : Byte} {sel : BitVec 4} {data : Byte} {i : Instr}
    (h : bindOfSel sel data = .ok i) : IsWordOf pause i (wordOf 9 sel data) := by
  unfold bindOfSel at h
  split_ifs at h with hTimer hIrq
  · obtain ⟨rfl, rfl⟩ := mustBeZero_ok h
    exact ⟨by rw [hTimer]; rfl, rfl⟩
  · obtain ⟨rfl, rfl⟩ := mustBeZero_ok h
    exact ⟨by rw [hIrq]; rfl, rfl⟩

/-- Three fields that decode are the fields of a well-formed operation's word. -/
theorem decodeFields_ok {pause : Byte} {op sel : BitVec 4} {data : Byte} {i : Instr}
    (h : decodeFields pause op sel data = .ok i) : IsWordOf pause i (wordOf op sel data) := by
  obtain rfl | rfl | rfl | rfl | rfl | rfl | rfl | rfl | rfl | rfl | rfl | hfree := op_cases op
  · obtain ⟨rfl, rfl⟩ := mustBeZero_ok h
    exact isWordOf_byteRead pause sel
  · cases h
    exact isWordOf_byteWrite pause sel data
  · obtain ⟨rfl, rfl⟩ := mustBeZero_ok h
    exact isWordOf_rd16 pause sel
  · cases h
    exact isWordOf_wr16 pause sel data
  · obtain ⟨rfl, rfl⟩ := mustBeZero_ok h
    exact isWordOf_rd32 pause sel
  · cases h
    exact isWordOf_wr32 pause sel data
  · obtain ⟨rfl, rfl⟩ := mustBeZero_ok h
    exact isWordOf_pressInstr pause data
  · obtain ⟨rfl, rfl⟩ := mustBeZero_ok h
    exact ⟨rfl, rfl⟩
  · cases h
    exact ⟨rfl, rfl⟩
  · exact isWordOf_bindOfSel h
  · by_cases hsel : sel = 0
    · obtain ⟨rfl, rfl⟩ := mustBeZero_ok ((if_pos hsel).symm.trans h)
      exact ⟨by rw [hsel]; rfl, rfl⟩
    · cases (if_neg hsel).symm.trans h
  · rw [decodeFields_reserved pause sel data hfree] at h
    cases h

/-- Settles O2: a word is its three fields, and those that decode are an operation's. -/
theorem encodeInvertsDecode : Obligations.EncodeInvertsDecode := by
  intro pause w i h
  have hword := decodeFields_ok h
  rwa [wordOf_fields] at hword

/-! ### The words refused -/

theorem bindOfSel_error_iff (sel : BitVec 4) (data : Byte) :
    (∃ why, bindOfSel sel data = .error why) ↔ 2 ≤ sel.toNat ∨ data.toNat ≠ 0 := by
  by_cases hTimer : sel = 0
  · subst hTimer
    exact (mustBeZero_error_iff .badData data (.bind .timer)).trans (by simp)
  · by_cases hIrq : sel = 1
    · subst hIrq
      exact (mustBeZero_error_iff .badData data (.bind .irq)).trans (by simp)
    · exact iff_of_true ⟨.badSel, (if_neg hTimer).trans (if_neg hIrq)⟩ (.inl (by bv_omega))

theorem snapshot_error_iff (pause : Byte) (sel : BitVec 4) (data : Byte) :
    (∃ why, decodeFields pause 10 sel data = .error why) ↔ sel.toNat ≠ 0 ∨ data.toNat ≠ 0 := by
  by_cases hsel : sel = 0
  · subst hsel
    exact (mustBeZero_error_iff .badData data .snapshot).trans (by simp)
  · exact iff_of_true ⟨.badSel, if_neg hsel⟩ (.inl (by bv_omega))

/-- The fields that do not decode, `OP` by `OP` (R73). -/
theorem decodeFields_error_iff (pause : Byte) (op sel : BitVec 4) (data : Byte) :
    (∃ why, decodeFields pause op sel data = .error why) ↔
      11 ≤ op.toNat ∨ ((op.toNat = 0 ∨ op.toNat = 2 ∨ op.toNat = 4) ∧ data.toNat ≠ 0) ∨
        ((op.toNat = 6 ∨ op.toNat = 7) ∧ sel.toNat ≠ 0) ∨ (op.toNat = 9 ∧ (2 ≤ sel.toNat ∨ data.toNat ≠ 0)) ∨
        (op.toNat = 10 ∧ (sel.toNat ≠ 0 ∨ data.toNat ≠ 0)) := by
  obtain rfl | rfl | rfl | rfl | rfl | rfl | rfl | rfl | rfl | rfl | rfl | hfree := op_cases op
  · exact (mustBeZero_error_iff .badData data _).trans (by simp)
  · exact iff_of_false (not_error_of_ok _) (by simp)
  · exact (mustBeZero_error_iff .badData data _).trans (by simp)
  · exact iff_of_false (not_error_of_ok _) (by simp)
  · exact (mustBeZero_error_iff .badData data _).trans (by simp)
  · exact iff_of_false (not_error_of_ok _) (by simp)
  · exact (mustBeZero_error_iff .badSel sel _).trans (by simp)
  · exact (mustBeZero_error_iff .badSel sel _).trans (by simp)
  · exact iff_of_false (not_error_of_ok _) (by simp)
  · exact (bindOfSel_error_iff sel data).trans (by simp)
  · exact (snapshot_error_iff pause sel data).trans (by simp)
  · exact iff_of_true ⟨_, decodeFields_reserved pause sel data hfree⟩ (.inl hfree)

/-- Settles O3: a word is refused for its fields alone. -/
theorem refusedWordsAreThoseOfFormatS : Obligations.RefusedWordsAreThoseOfFormatS := fun pause w =>
  decodeFields_error_iff pause (opField w) (selField w) (dataField w)

/-! ### The rows of the table -/

/-- The per-instruction laws of `EncodeInRow`, for every operation. -/
theorem encode_inRow : ∀ i : Instr, Laws.EncodeInRow.Statement i
  | .rd8A => Laws.EncodeInRow.rd8A
  | .rd8B => Laws.EncodeInRow.rd8B
  | .rd8C => Laws.EncodeInRow.rd8C
  | .rd8Cmd => Laws.EncodeInRow.rd8Cmd
  | .rd8OtherLow s => Laws.EncodeInRow.rd8OtherLow s
  | .rd8OtherHigh s => Laws.EncodeInRow.rd8OtherHigh s
  | .wr8A v => Laws.EncodeInRow.wr8A v
  | .wr8B v => Laws.EncodeInRow.wr8B v
  | .modeset f => Laws.EncodeInRow.modeset f
  | .bitset x n => Laws.EncodeInRow.bitset x n
  | .bitclr x n => Laws.EncodeInRow.bitclr x n
  | .wr8C v => Laws.EncodeInRow.wr8C v
  | .wr8OtherLow s v => Laws.EncodeInRow.wr8OtherLow s v
  | .wr8OtherHigh s v => Laws.EncodeInRow.wr8OtherHigh s v
  | .rd16 p => Laws.EncodeInRow.rd16 p
  | .wr16 p v => Laws.EncodeInRow.wr16 p v
  | .rd32 p => Laws.EncodeInRow.rd32 p
  | .wr32 p v => Laws.EncodeInRow.wr32 p v
  | .keydown c => Laws.EncodeInRow.keydown c
  | .keydownPause => Laws.EncodeInRow.keydownPause
  | .keyup c => Laws.EncodeInRow.keyup c
  | .qpush a d => Laws.EncodeInRow.qpush a d
  | .bind k => Laws.EncodeInRow.bind k
  | .snapshot => Laws.EncodeInRow.snapshot

/-- Settles O4: the word that decodes is the operation's own word, which lies in the operation's row. -/
theorem decodedWordLiesInItsRow : Obligations.DecodedWordLiesInItsRow := by
  intro pause w i h
  obtain ⟨hword, -⟩ := encodeInvertsDecode pause w i h
  rw [← hword]
  exact encode_inRow i pause

theorem and_fullNibble (x : BitVec 4) : x &&& 0xF = x := BitVec.and_allOnes

theorem and_fullByte (x : Byte) : x &&& 0xFF = x := BitVec.and_allOnes

/-- Every row fixes `OP` whole; `SEL` and `DATA` are fixed where their masks say. -/
theorem fields_of_row {w : StimWord} (op : BitVec 4) {sel selMask : BitVec 4} {data dataMask : Byte}
    (h : w &&& wordOf 0xF selMask dataMask = wordOf op sel data) :
    ∃ s d, w = wordOf op s d ∧ s &&& selMask = sel ∧ d &&& dataMask = data := by
  refine ⟨selField w, dataField w, ?_⟩
  rw [← wordOf_fields w, wordOf_and, wordOf_inj, and_fullNibble] at h
  obtain ⟨hop, hsel, hdata⟩ := h
  exact ⟨by rw [← hop, wordOf_fields], hsel, hdata⟩

/-- A row that leaves `DATA` free. -/
theorem word_of_freeData_row {w : StimWord} (op sel : BitVec 4)
    (h : w &&& wordOf 0xF 0xF 0 = wordOf op sel 0) : ∃ d, w = wordOf op sel d := by
  obtain ⟨s, d, rfl, hsel, -⟩ := fields_of_row op h
  exact ⟨d, by rw [← hsel, and_fullNibble]⟩

/-- A row that fixes `DATA` whole. -/
theorem word_of_fixedData_row {w : StimWord} (op : BitVec 4) {sel selMask : BitVec 4} {data : Byte}
    (h : w &&& wordOf 0xF selMask 0xFF = wordOf op sel data) : ∃ s, w = wordOf op s data ∧ s &&& selMask = sel := by
  obtain ⟨s, d, rfl, hsel, hdata⟩ := fields_of_row op h
  exact ⟨s, by rw [← hdata, and_fullByte], hsel⟩

/-- A row that leaves both operands free. -/
theorem word_of_free_row {w : StimWord} (op : BitVec 4) (h : w &&& wordOf 0xF 0 0 = wordOf op 0 0) :
    ∃ s d, w = wordOf op s d := by
  obtain ⟨s, d, rfl, -, -⟩ := fields_of_row op h
  exact ⟨s, d, rfl⟩

/-- A row of the command port. -/
theorem word_of_command_row {w : StimWord} {v mask : Byte}
    (h : w &&& wordOf 0xF 0xF mask = wordOf 1 3 v) : ∃ d, w = wordOf 1 3 d ∧ d &&& mask = v := by
  obtain ⟨s, d, rfl, hsel, hdata⟩ := fields_of_row 1 h
  exact ⟨d, by rw [← hsel, and_fullNibble], hdata⟩

/-- A row that leaves no bit free holds one word, its operation's own. -/
theorem encode_eq_of_full_row {pause : Byte} {w : StimWord} {j : Instr} (hfull : (tableRow pause j).2 = 0xFFFF)
    (h : w &&& (tableRow pause j).2 = (tableRow pause j).1) : encode pause j = w := by
  have hall : ∀ x : StimWord, x &&& 0xFFFF = x := fun _ => BitVec.and_allOnes
  have hj := encode_inRow j pause
  rw [hfull, hall] at h hj
  exact hj.trans h.symm

/-- A word in a row is the word of a well-formed operation of that row, the sentinel's left out of the `KEYDOWN` row. -/
theorem exists_isWordOf_of_row {pause : Byte} {w : StimWord} {j : Instr}
    (h : w &&& (tableRow pause j).2 = (tableRow pause j).1) (hpause : ∀ c, j = .keydown c → dataField w ≠ pause) :
    ∃ i, IsWordOf pause i w ∧ tableRow pause i = tableRow pause j := by
  cases j with
  | rd8A | rd8B | rd8C | rd8Cmd | keydownPause | snapshot => exact ⟨_, ⟨encode_eq_of_full_row rfl h, rfl⟩, rfl⟩
  | rd8OtherLow =>
    obtain ⟨s, rfl, hsel⟩ := word_of_fixedData_row 0 (selMask := 0xC) (sel := 0x4) (data := 0) h
    obtain ⟨k, rfl⟩ := exists_low_of_mask hsel
    exact ⟨.rd8OtherLow k, ⟨rfl, rfl⟩, rfl⟩
  | rd8OtherHigh =>
    obtain ⟨s, rfl, hsel⟩ := word_of_fixedData_row 0 (selMask := 0x8) (sel := 0x8) (data := 0) h
    obtain ⟨k, rfl⟩ := exists_high_of_mask hsel
    exact ⟨.rd8OtherHigh k, ⟨rfl, rfl⟩, rfl⟩
  | wr8A =>
    obtain ⟨d, rfl⟩ := word_of_freeData_row 1 0 h
    exact ⟨.wr8A d, ⟨rfl, rfl⟩, rfl⟩
  | wr8B =>
    obtain ⟨d, rfl⟩ := word_of_freeData_row 1 1 h
    exact ⟨.wr8B d, ⟨rfl, rfl⟩, rfl⟩
  | wr8C =>
    obtain ⟨d, rfl⟩ := word_of_freeData_row 1 2 h
    exact ⟨.wr8C d, ⟨rfl, rfl⟩, rfl⟩
  | modeset =>
    obtain ⟨d, rfl, hdata⟩ := word_of_command_row (mask := 0x80) (v := 0x80) h
    obtain ⟨f, rfl⟩ := exists_modeByte_of_mask hdata
    exact ⟨.modeset f, ⟨rfl, rfl⟩, rfl⟩
  | bitset =>
    obtain ⟨d, rfl, hdata⟩ := word_of_command_row (mask := 0x81) (v := 0x01) h
    obtain ⟨x, n, rfl⟩ := exists_bsrByte_set_of_mask hdata
    exact ⟨.bitset x n, ⟨rfl, rfl⟩, rfl⟩
  | bitclr =>
    obtain ⟨d, rfl, hdata⟩ := word_of_command_row (mask := 0x81) (v := 0x00) h
    obtain ⟨x, n, rfl⟩ := exists_bsrByte_clear_of_mask hdata
    exact ⟨.bitclr x n, ⟨rfl, rfl⟩, rfl⟩
  | wr8OtherLow =>
    obtain ⟨s, d, rfl, hsel, -⟩ := fields_of_row 1 (selMask := 0xC) (sel := 0x4) (dataMask := 0) (data := 0) h
    obtain ⟨k, rfl⟩ := exists_low_of_mask hsel
    exact ⟨.wr8OtherLow k d, ⟨rfl, rfl⟩, rfl⟩
  | wr8OtherHigh =>
    obtain ⟨s, d, rfl, hsel, -⟩ := fields_of_row 1 (selMask := 0x8) (sel := 0x8) (dataMask := 0) (data := 0) h
    obtain ⟨k, rfl⟩ := exists_high_of_mask hsel
    exact ⟨.wr8OtherHigh k d, ⟨rfl, rfl⟩, rfl⟩
  | rd16 =>
    obtain ⟨s, rfl, -⟩ := word_of_fixedData_row 2 (selMask := 0) (sel := 0) (data := 0) h
    exact ⟨_, isWordOf_rd16 pause s, rfl⟩
  | wr16 =>
    obtain ⟨s, d, rfl⟩ := word_of_free_row 3 h
    exact ⟨_, isWordOf_wr16 pause s d, rfl⟩
  | rd32 =>
    obtain ⟨s, rfl, -⟩ := word_of_fixedData_row 4 (selMask := 0) (sel := 0) (data := 0) h
    exact ⟨_, isWordOf_rd32 pause s, rfl⟩
  | wr32 =>
    obtain ⟨s, d, rfl⟩ := word_of_free_row 5 h
    exact ⟨_, isWordOf_wr32 pause s d, rfl⟩
  | keydown c =>
    obtain ⟨d, rfl⟩ := word_of_freeData_row 6 0 h
    have hd : d ≠ pause := by simpa using hpause c rfl
    exact ⟨.keydown d, isWordOf_keydown hd, rfl⟩
  | keyup =>
    obtain ⟨d, rfl⟩ := word_of_freeData_row 7 0 h
    exact ⟨.keyup d, ⟨rfl, rfl⟩, rfl⟩
  | qpush =>
    obtain ⟨s, d, rfl⟩ := word_of_free_row 8 h
    exact ⟨.qpush s d, ⟨rfl, rfl⟩, rfl⟩
  | bind =>
    obtain ⟨s, rfl, hsel⟩ := word_of_fixedData_row 9 (selMask := 0xE) (sel := 0) (data := 0) h
    have hkind : ∀ s : BitVec 4, s &&& 0xE = 0 → s = 0 ∨ s = 1 := by decide
    obtain rfl | rfl := hkind s hsel
    · exact ⟨.bind .timer, ⟨rfl, rfl⟩, rfl⟩
    · exact ⟨.bind .irq, ⟨rfl, rfl⟩, rfl⟩

/-- Settles O5: the word is that of an operation of the row, so it decodes to that operation. -/
theorem wordInARowDecodesToThatRow : Obligations.WordInARowDecodesToThatRow := by
  intro pause w j h hpause
  obtain ⟨i, hword, hrow⟩ := exists_isWordOf_of_row h hpause
  exact ⟨i, hword.decode_eq, hrow⟩

/-! ### Worked encodings -/

/-- Settles O6: each word is the encoding of its operation, at every pause code. -/
theorem workedEncodingsDecode : Obligations.WorkedEncodingsDecode := by
  intro pause
  have hdecode : ∀ i : Instr, i.wellFormed pause = true → decode pause (encode pause i) = .ok i :=
    decodeInvertsEncode pause
  exact ⟨hdecode .rd8A rfl, hdecode .rd8C rfl, hdecode (.wr8B 0x4C) rfl, hdecode (.modeset 0x19) rfl,
    hdecode (.bitset 0 7) rfl, hdecode (.bitclr 0 1) rfl, hdecode (.rd16 .a) rfl, hdecode (.wr32 .b 0x01) rfl,
    hdecode (.keyup 0xC8) rfl, hdecode (.qpush 1 0x55) rfl, hdecode (.bind .timer) rfl, hdecode (.bind .irq) rfl,
    hdecode .snapshot rfl, hdecode (.rd8OtherLow 0) rfl⟩

end Sys2Proof
end

section
/-! PROOFS. The statements about the Register File (spec/40_register_file.md): completion (R98), what each read returns
(R81 to R85), what each byte write does (R86 to R93), and the frame of the bus operations (R99). First the exact state
each operation makes where the block is wired; then the inversion of a bus operation, from which the frame follows field
by field. -/

namespace Sys2Proof.Machine

/-! ### Completion -/

/-- Bound collaborators stay bound (R31). -/
theorem KeepsDevice.ready {s t : State} (h : KeepsDevice s t) (hs : s.ready = true) : t.ready = true := by
  obtain ⟨htimer, hirq⟩ := Bool.and_eq_true_iff.mp hs
  exact Bool.and_eq_true_iff.mpr ⟨h.boundTimer htimer, h.boundIrq hirq⟩

/-- No operation looks at anything but the wiring to decide whether it completes (R98). -/
theorem exec_completes (i : Instr) {s : State} (h : s.ready = true) : ∃ t, exec i s = .next t := by
  cases i with
  | bind | snapshot => exact ⟨_, rfl⟩
  | _ => exact ⟨_, whenReady_ready _ h⟩

/-- Settles O12: an operation on a wired block completes, and what completes keeps wiring and configuration. -/
theorem everyOperationCompletesWhenWired : Obligations.EveryOperationCompletesWhenWired := by
  intro i s h
  obtain ⟨t, hexec⟩ := exec_completes i h
  have hkeeps := exec_keepsDevice hexec
  exact ⟨t, hexec, hkeeps.ready h, hkeeps.cfg⟩

/-! ### Byte operations on a wired block -/

section

variable {s : State} (h : s.ready = true)

include h

theorem exec_rd8A_ready : exec .rd8A s = .next ((readDataPort s).2.returning (.byte (readDataPort s).1)) :=
  whenReady_ready _ h

theorem exec_rd8B_ready : exec .rd8B s = .next (s.returning (.byte s.portB)) := whenReady_ready _ h

theorem exec_rd8C_ready :
    exec .rd8C s = .next (s.returning (.byte (if bankBit s.portB then s.portC1 else s.portC0))) := whenReady_ready _ h

theorem exec_rd8Cmd_ready : exec .rd8Cmd s = .next (s.returning (.byte s.mode)) := whenReady_ready _ h

theorem exec_wr8B_ready (v : Byte) : exec (.wr8B v) s = .next ((writeControl v s).returning .none) :=
  whenReady_ready _ h

theorem exec_modeset_ready (f : BitVec 7) :
    exec (.modeset f) s = .next ({ s with mode := modeByte f }.returning .none) := whenReady_ready _ h

theorem exec_bitset_ready (x n : BitVec 3) :
    exec (.bitset x n) s = .next ({ s with portC0 := s.portC0 ||| bitMask n }.returning .none) := whenReady_ready _ h

theorem exec_bitclr_ready (x n : BitVec 3) :
    exec (.bitclr x n) s = .next ({ s with portC0 := s.portC0 &&& ~~~(bitMask n) }.returning .none) :=
  whenReady_ready _ h

end

/-! ### Reads without an effect -/

/-- Settles O14: the byte read is `portB`, which a completed control-port write has set to its operand. -/
theorem controlPortReadEchoes : Obligations.ControlPortReadEchoes := by
  intro pause s h
  refine ⟨decodeInvertsEncode pause .rd8B rfl, exec_rd8B_ready h, fun v t hwrite => ?_, fun c => rfl⟩
  obtain ⟨-, rfl⟩ := whenReady_next hwrite
  have hready : ((writeControl v s).returning .none).ready = true := by
    rw [returning_ready, writeControl_ready, h]
  have hread := exec_rd8B_ready hready
  rw [returning_portB, writeControl_portB] at hread
  exact ⟨hready, hread⟩

/-- Settles O15: the stored bit 2 picks the byte (R17). -/
theorem statusPortReadSelectsByBankBit : Obligations.StatusPortReadSelectsByBankBit := by
  intro pause s h
  refine ⟨decodeInvertsEncode pause .rd8C rfl, fun hbank => ?_, fun hbank => ?_⟩
  · have hbit : bankBit s.portB = false := hbank
    rw [exec_rd8C_ready h, hbit]
    rfl
  · have hbit : bankBit s.portB = true := hbank
    rw [exec_rd8C_ready h, hbit]
    rfl

/-- Settles O17: neither row looks at the select. -/
theorem otherAddressReadsZero : Obligations.OtherAddressReadsZero := by
  intro k l s h
  refine ⟨fun pause => ⟨?_, ?_⟩, whenReady_ready _ h, whenReady_ready _ h⟩
  · exact decodeInvertsEncode pause (.rd8OtherLow k) rfl
  · exact decodeInvertsEncode pause (.rd8OtherHigh l) rfl

/-! ### The data port -/

/-- Settles O18: the configuration byte, the fallback byte or the front entry, by bit 7 and then the occupancy. -/
theorem dataPortRead : Obligations.DataPortRead := by
  intro pause s h
  refine ⟨decodeInvertsEncode pause .rd8A rfl, fun hswitch => ?_, fun hswitch hlen => ?_, fun hswitch hlen => ?_⟩
  · rw [exec_rd8A_ready h, readDataPort_config hswitch]
    rfl
  · rw [exec_rd8A_ready h, readDataPort_queue hswitch, qRead_empty hlen]
    rfl
  · rw [exec_rd8A_ready h, readDataPort_queue hswitch, qRead_entry hlen]
    rfl

/-! ### Ignored writes -/

/-- Settles O19: all four only check the wiring. -/
theorem ignoredByteWrites : Obligations.IgnoredByteWrites := by
  intro v k l s h
  exact ⟨whenReady_ready _ h, whenReady_ready _ h, whenReady_ready _ h, whenReady_ready _ h⟩

/-! ### The control port -/

theorem arbUpdate_eq (s : State) :
    arbUpdate s = { s with trace := s.trace ++ [.irqSet .kbd (kbdLevel s), .irqSet .aux 0] } := by
  simp [arbUpdate, emit, auxLevel]

/-- Without the disabled branch the primary line is never asserted (R123). -/
theorem kbdLevel_of_not_live {s : State} (h : s.cfg.arbLive = false) : kbdLevel s = 0 := by
  simp [kbdLevel, h]

/-- An enqueue on a queue with room, as one update of the state (R111, R120). -/
theorem qWrite_accepts (d a : Byte) {s : State} (h : s.len ≠ cap) :
    ∃ level, (s.cfg.arbLive = false → level = 0) ∧
      qWrite d a s = { s with
        buf := setSlot s.buf s.wp ⟨d, a⟩, wp := s.wp + 1, len := s.len + 1
        trace := s.trace ++ [.irqSet .kbd level, .irqSet .aux 0] } := by
  rw [qWrite_room d a h, arbUpdate_eq]
  refine ⟨_, ?_, rfl⟩
  exact fun hdead => kbdLevel_of_not_live hdead

/-- What a control-port write does before it comes to the self-test byte: the byte is stored, bit 0 forwarded, and the
queue emptied where bit 7 is set (R87, D11). -/
def State.controlStored (v : Byte) (s : State) : State :=
  { s with
    portB := v
    rp := if v[7] = true then 0 else s.rp
    wp := if v[7] = true then 0 else s.wp
    len := if v[7] = true then 0 else s.len
    trace := s.trace ++ [.timerGate gateChannel (v[0])] }

theorem writeControl_eq (v : Byte) (s : State) :
    writeControl v s = if v[6] = true then qWrite selfTestByte 0 (s.controlStored v) else s.controlStored v := by
  have hstored : (if clrBit v then qReset (emit (.timerGate gateChannel (gateBit v)) { s with portB := v })
      else emit (.timerGate gateChannel (gateBit v)) { s with portB := v }) = s.controlStored v := by
    cases hclr : v[7] <;> simp [State.controlStored, clrBit, hclr, emit, qReset, gateBit]
  cases hself : v[6] with
  | true => rw [writeControl_selfTest s hself, hstored, if_pos rfl]
  | false => rw [writeControl_quiet s hself, hstored, if_neg Bool.false_ne_true]

/-- Without bit 6, or with no room for the self-test byte, nothing more happens (R27, R87). -/
theorem writeControl_no_push {v : Byte} {s : State} (h : v[6] = false ∨ (s.controlStored v).len = cap) :
    writeControl v s = s.controlStored v := by
  rw [writeControl_eq]
  split
  · next hself => exact qWrite_full _ _ (h.resolve_left (by simp [hself]))
  · rfl

theorem writeControl_push {v : Byte} (s : State) (h : v[6] = true) :
    writeControl v s = qWrite selfTestByte 0 (s.controlStored v) := by
  rw [writeControl_eq, if_pos h]

/-- Settles O21: the two clauses are whether the self-test byte is pushed. -/
theorem controlPortWrite : Obligations.ControlPortWrite := by
  intro v s h rp wp len
  refine ⟨fun hquiet => ?_, fun ⟨hself, hroom⟩ => ?_⟩
  · rw [exec_wr8B_ready h, writeControl_no_push hquiet]
    rfl
  · obtain ⟨level, hlevel, heq⟩ := qWrite_accepts selfTestByte 0 (s := s.controlStored v) hroom
    refine ⟨level, hlevel, ?_⟩
    rw [exec_wr8B_ready h, writeControl_push s hself, heq]
    simp [State.controlStored, State.returning, selfTestByte, rp, wp, len]

/-! ### The command port -/

/-- Settles O26: `commandInstr` asks for bit 7 and then for bit 0. -/
theorem commandByteSelectsExactlyOne : Obligations.CommandByteSelectsExactlyOne := by
  intro v
  refine ⟨fun h7 => ?_, fun h7 h0 => ?_, fun h7 h0 => ?_⟩
  · simp [byteWrite, commandInstr, h7]
  · simp [byteWrite, commandInstr, h7, h0]
  · simp [byteWrite, commandInstr, h7, h0]

/-- Settles O23: `mode` is the whole command byte, and its views are the byte's bits by definition. -/
theorem modesetStoresTheCommandByte : Obligations.ModesetStoresTheCommandByte := by
  intro f s h v t
  exact ⟨fun pause => decodeInvertsEncode pause (.modeset f) rfl, modeByte_bit7 f, exec_modeset_ready h f,
    exec_modeset_ready (s := t) h f, rfl, rfl, rfl, rfl, rfl, rfl⟩

/-- The mask has exactly the bit of its index (R67 (a)). -/
theorem getLsbD_bitMask (n : BitVec 3) {k : Nat} (hk : k < 8) : (bitMask n).getLsbD k = decide (k = n.toNat) := by
  revert n k
  decide

/-- Settles O24: the status byte is joined with the mask of bit `n`. -/
theorem bitsetSetsOneStatusBit : Obligations.BitsetSetsOneStatusBit := by
  intro x n s h
  refine ⟨fun pause => decodeInvertsEncode pause (.bitset x n) rfl, _, exec_bitset_ready h x n, fun k hk => ?_⟩
  rw [BitVec.getLsbD_or, getLsbD_bitMask n hk, Bool.or_comm]

/-- Settles O25: the status byte is cut by the complement of the mask of bit `n`. -/
theorem bitclrClearsOneStatusBit : Obligations.BitclrClearsOneStatusBit := by
  intro x n s h
  refine ⟨fun pause => decodeInvertsEncode pause (.bitclr x n) rfl, _, exec_bitclr_ready h x n, fun k hk => ?_⟩
  rw [BitVec.getLsbD_and, BitVec.getLsbD_not, getLsbD_bitMask n hk, decide_eq_true hk, Bool.true_and, Bool.and_comm]

/-! ### What a completed bus operation has done -/

/-- What a completed bus operation makes of a state, apart from the value it returns. Unlike `Effect` it ties each
change to the one operation that can make it, which is what the frame of R99 turns on. -/
inductive BusEffect (s : State) : Instr → State → Prop where
  | dataPortRead : BusEffect s .rd8A (readDataPort s).2
  | controlWrite (v : Byte) : BusEffect s (.wr8B v) (writeControl v s)
  | modeWrite (f : BitVec 7) : BusEffect s (.modeset f) { s with mode := modeByte f }
  | statusSet (x n : BitVec 3) : BusEffect s (.bitset x n) { s with portC0 := s.portC0 ||| bitMask n }
  | statusClear (x n : BitVec 3) : BusEffect s (.bitclr x n) { s with portC0 := s.portC0 &&& ~~~(bitMask n) }
  | unchanged (i : Instr) : BusEffect s i s

theorem BusEffect.of_whenReady {i : Instr} {s u t : State} {r : Result} (e : BusEffect s i u)
    (h : whenReady s (u.returning r) = .next t) : ∃ u r, BusEffect s i u ∧ t = u.returning r :=
  ⟨u, r, e, (whenReady_next h).2⟩

theorem exec_busEffect {i : Instr} {s t : State} (hi : agentOf i = .bus) (h : exec i s = .next t) :
    ∃ u r, BusEffect s i u ∧ t = u.returning r := by
  cases i with
  | rd8A => exact BusEffect.dataPortRead.of_whenReady h
  | wr8B v => exact (BusEffect.controlWrite v).of_whenReady h
  | modeset f => exact (BusEffect.modeWrite f).of_whenReady h
  | bitset x n => exact (BusEffect.statusSet x n).of_whenReady h
  | bitclr x n => exact (BusEffect.statusClear x n).of_whenReady h
  | keydown | keydownPause | keyup | qpush | bind | snapshot => cases hi
  | _ => exact (BusEffect.unchanged _).of_whenReady h

section

variable {i : Instr} {s u : State}

/-- No bus operation touches the device's constants, the wiring or what the other agents have waiting. -/
theorem BusEffect.fixed (e : BusEffect s i u) :
    u.cfg = s.cfg ∧ u.portA0 = s.portA0 ∧ u.portC1 = s.portC1 ∧ u.boundTimer = s.boundTimer ∧
      u.boundIrq = s.boundIrq ∧ u.stimuli = s.stimuli ∧ u.pending = s.pending ∧ u.schedule = s.schedule := by
  cases e with
  | dataPortRead | controlWrite => simp
  | _ => exact ⟨rfl, rfl, rfl, rfl, rfl, rfl, rfl, rfl⟩

theorem BusEffect.enqueue_side (e : BusEffect s i u) (hi : ∀ v, i ≠ .wr8B v) :
    u.portB = s.portB ∧ u.wp = s.wp ∧ u.buf = s.buf := by
  cases e with
  | controlWrite v => exact absurd rfl (hi v)
  | dataPortRead => exact ⟨readDataPort_portB s, readDataPort_wp s, readDataPort_buf s⟩
  | _ => exact ⟨rfl, rfl, rfl⟩

theorem BusEffect.portA1 (e : BusEffect s i u) (hi : i ≠ .rd8A) : u.portA1 = s.portA1 := by
  cases e with
  | dataPortRead => exact absurd rfl hi
  | controlWrite v => exact writeControl_portA1 v s
  | _ => rfl

theorem BusEffect.portC0 (e : BusEffect s i u) (hi : ∀ x n, i ≠ .bitset x n ∧ i ≠ .bitclr x n) :
    u.portC0 = s.portC0 := by
  cases e with
  | statusSet x n => exact absurd rfl (hi x n).1
  | statusClear x n => exact absurd rfl (hi x n).2
  | dataPortRead => exact readDataPort_portC0 s
  | controlWrite v => exact writeControl_portC0 v s
  | _ => rfl

theorem BusEffect.mode (e : BusEffect s i u) (hi : ∀ f, i ≠ .modeset f) : u.mode = s.mode := by
  cases e with
  | modeWrite f => exact absurd rfl (hi f)
  | dataPortRead => exact readDataPort_mode s
  | controlWrite v => exact writeControl_mode v s
  | _ => rfl

theorem BusEffect.dequeue_side (e : BusEffect s i u) (hB : ∀ v, i ≠ .wr8B v) (hA : i ≠ .rd8A) :
    u.rp = s.rp ∧ u.len = s.len ∧ u.trace = s.trace := by
  cases e with
  | dataPortRead => exact absurd rfl hA
  | controlWrite v => exact absurd rfl (hB v)
  | _ => exact ⟨rfl, rfl, rfl⟩

end

/-! ### The two rows with cases of their own -/

/-- The row of `RD8.A` (R99). -/
theorem rd8A_footprint {s t : State} (h : exec .rd8A s = .next t) :
    (s.portB[7] = true → t = { s with result := t.result }) ∧
    (s.portB[7] = false → s.len = 0 → t = { s with portA1 := t.portA1, result := t.result }) ∧
    (s.portB[7] = false → s.len ≠ 0 → t.rp = s.rp + 1 ∧ t.len = s.len - 1 ∧
      ∃ line, t.trace = s.trace ++ [.irqSet line 0]) := by
  obtain ⟨-, hconfig, hempty, hentry⟩ := dataPortRead 0 s (whenReady_next h).1
  rw [h] at hconfig hempty hentry
  refine ⟨fun hswitch => ?_, fun hswitch hlen => ?_, fun hswitch hlen => ?_⟩
  · injection hconfig hswitch with ht
    rw [ht]
  · injection hempty hswitch hlen with ht
    rw [ht]
  · injection hentry hswitch hlen with ht
    rw [ht]
    exact ⟨rfl, rfl, _, rfl⟩

/-- The row of `WR8.B` (R99). -/
theorem wr8B_footprint {v : Byte} {s t : State} (h : exec (.wr8B v) s = .next t) :
    let wp := if v[7] = true then 0 else s.wp
    let len := if v[7] = true then 0 else s.len
    t.portB = v ∧ t.rp = (if v[7] = true then 0 else s.rp) ∧
    ((v[6] = false ∨ len = 256) →
      t.buf = s.buf ∧ t.wp = wp ∧ t.len = len ∧ t.trace = s.trace ++ [.timerGate 2 (v[0])]) ∧
    ((v[6] = true ∧ len ≠ 256) →
      (∀ k : Byte, k ≠ wp → slot t.buf k = slot s.buf k) ∧ t.wp = wp + 1 ∧ t.len = len + 1 ∧
      ∃ kbd aux, t.trace = s.trace ++ [.timerGate 2 (v[0]), .irqSet .kbd kbd, .irqSet .aux aux]) := by
  intro wp len
  obtain ⟨hready, ht⟩ := whenReady_next h
  obtain ⟨hquiet, hpush⟩ := controlPortWrite v s hready
  rw [h] at hquiet hpush
  refine ⟨?_, ?_, fun hcond => ?_, fun hcond => ?_⟩
  · rw [ht, returning_portB, writeControl_portB]
  · rw [ht, returning_rp, writeControl_eq]
    split
    · rw [qWrite_rp]
      rfl
    · rfl
  · injection hquiet hcond with ht
    rw [ht]
    exact ⟨rfl, rfl, rfl, rfl⟩
  · obtain ⟨level, -, heq⟩ := hpush hcond
    injection heq with ht
    rw [ht]
    exact ⟨fun k hk => slot_setSlot_other s.buf _ hk, rfl, rfl, level, 0, rfl⟩

/-- Settles O28: each element's rows by the effect of the operation, and the two rows with cases by their own lemmas. -/
theorem busOperationFootprint : Obligations.BusOperationFootprint := by
  intro i s t hi h
  obtain ⟨u, r, e, rfl⟩ := exec_busEffect hi h
  refine ⟨e.fixed, e.enqueue_side, e.portA1, e.portC0, e.mode, e.dequeue_side, ?_, ?_⟩
  · rintro rfl
    exact rd8A_footprint h
  · rintro v rfl
    exact wr8B_footprint h

/-! ### The mode byte read back -/

/-- Only a mode-set write changes `mode`, whichever agent's operation it is (R21, D13). -/
theorem exec_mode_of_ne_modeset {i : Instr} {s t : State} (hi : ∀ f, i ≠ .modeset f) (h : exec i s = .next t) :
    t.mode = s.mode := by
  cases hagent : agentOf i with
  | bus =>
    obtain ⟨u, r, e, rfl⟩ := exec_busEffect hagent h
    exact e.mode hi
  | input =>
    rw [exec_of_input s hagent] at h
    obtain ⟨-, rfl⟩ := whenReady_next h
    exact pushAll_mode _ s
  | host =>
    cases i with
    | bind k =>
      injection h with h
      rw [← h]
      exact offer_mode (some k) s
    | snapshot =>
      injection h with h
      rw [← h]
      rfl
    | _ => cases hagent

/-- A command byte with bit 7 set is the mode byte of its seven low bits (R61). -/
theorem modeByte_low_bits {v : Byte} (h : v[7] = true) : modeByte (v.extractLsb' 0 7) = v := by
  revert v
  decide

/-- Settles O16: the read returns `mode`; the write of a byte with bit 7 set is the mode-set of its low bits, which
stores that very byte. -/
theorem commandPortReadReturnsLastModeByte : Obligations.CommandPortReadReturnsLastModeByte := by
  refine ⟨fun pause => decodeInvertsEncode pause .rd8Cmd rfl, fun c => rfl, fun s h => exec_rd8Cmd_ready h,
    fun i s t hi h => exec_mode_of_ne_modeset hi h, fun v s h h7 => ?_⟩
  obtain ⟨hmodeset, -, -⟩ := commandByteSelectsExactlyOne v
  rw [hmodeset h7, exec_modeset_ready h, modeByte_low_bits h7]
  exact ⟨_, rfl, exec_rd8Cmd_ready (s := State.returning .none { s with mode := v }) h⟩

end Sys2Proof.Machine
end

section
/-! PROOFS. The statements about the event queue (spec/41_event_queue.md): its three operations, the circular buffer as a
list of live entries (R110), raw pushes and the origin of entries (R114). -/

namespace Sys2Proof.Machine

/-! ### The queue operations one by one -/

/-- Settles O32: the drop and the store are the two branches of `Q.WRITE`. -/
theorem enqueueStoresOrDrops : Obligations.EnqueueStoresOrDrops := by
  intro d a s
  refine ⟨qWrite_full d a, fun hroom => ?_⟩
  obtain ⟨level, hlevel, heq⟩ := qWrite_accepts d a hroom
  refine ⟨level, hlevel, heq, ?_, fun k hk => ?_⟩
  · rw [heq, slot_setSlot_same]
  · rw [heq, slot_setSlot_other _ _ hk]

/-- After the last entry is dequeued the byte before the read cursor is the one just read (R112, R115). -/
theorem qRead_qRead_of_last {s : State} (h : s.len = 1) : qRead (qRead s).2 = ((qRead s).1, (qRead s).2) := by
  have hne : s.len ≠ 0 := by omega
  have hempty : (qRead s).2.len = 0 := by
    rw [qRead_entry hne, arbDeassert_len, h]
  rw [qRead_empty hempty, qRead_buf, qRead_entry hne, arbDeassert_rp, BitVec.add_sub_cancel]

/-- Settles O33: the fallback and the dequeue are the two branches of `Q.READ`. -/
theorem dequeueOrFallback : Obligations.DequeueOrFallback :=
  ⟨fun _ => qRead_empty, fun _ => qRead_entry, fun _ => qRead_qRead_of_last, by decide⟩

/-- Settles O34: the fallback read leaves buffer, read cursor and occupancy, so the next read is the same again. -/
theorem emptyReadRepeats : Obligations.EmptyReadRepeats := by
  intro s hready hempty hswitch
  obtain ⟨-, -, hfirst, -⟩ := dataPortRead 0 s hready
  refine ⟨_, hfirst hswitch hempty, ?_, rfl, rfl, rfl⟩
  obtain ⟨-, -, hagain, -⟩ := dataPortRead 0 { s with
    portA1 := (slot s.buf (s.rp - 1)).data, result := .byte (slot s.buf (s.rp - 1)).data } hready
  exact hagain hswitch hempty

/-- Settles O35: the cleared queue is empty, and the slot before cursor 0 is slot 255. -/
theorem queueResetKeepsContents : Obligations.QueueResetKeepsContents := by
  intro s
  exact ⟨rfl, qRead_empty (qReset_len s)⟩

/-! ### The circular buffer as a list -/

@[simp] theorem queueContents_length (s : State) : (queueContents s).length = s.len := by
  simp [queueContents]

theorem queueContents_of_empty {s : State} (h : s.len = 0) : queueContents s = [] :=
  List.eq_nil_of_length_eq_zero ((queueContents_length s).trans h)

/-- The slot at distance `k + 1` from a cursor is the one at distance `k` from the next. -/
theorem cursor_add_succ (x : Byte) (k : Nat) : x + BitVec.ofNat 8 (k + 1) = x + 1 + BitVec.ofNat 8 k := by
  rw [BitVec.ofNat_add, BitVec.add_assoc, BitVec.add_comm (BitVec.ofNat 8 k)]
  rfl

/-- The oldest live entry stands at the read cursor, and a dequeue leaves the others (R110, R112). -/
theorem queueContents_qRead {s : State} (h : s.len ≠ 0) :
    queueContents s = slot s.buf s.rp :: queueContents (qRead s).2 := by
  obtain ⟨n, hn⟩ := Nat.exists_eq_succ_of_ne_zero h
  have hrest : ∀ k ∈ List.range n,
      slot s.buf (s.rp + BitVec.ofNat 8 (k + 1)) = slot s.buf (s.rp + 1 + BitVec.ofNat 8 k) :=
    fun k _ => by rw [cursor_add_succ]
  rw [qRead_entry h]
  simp [queueContents, hn, List.range_succ_eq_map, List.map_congr_left hrest, Function.comp_def]

/-- The write cursor stands just behind the newest live entry (R28). -/
theorem QueueInv.wp_eq {s : State} (h : QueueInv s) : s.wp = s.rp + BitVec.ofNat 8 s.len := by
  obtain ⟨-, hwp⟩ := h
  apply BitVec.eq_of_toNat_eq
  rw [hwp, BitVec.toNat_add, BitVec.toNat_ofNat, Nat.add_mod_mod]

/-- While there is room, the slot at the write cursor is none of the live ones (R27, R28). -/
theorem QueueInv.live_ne_wp {s : State} (h : QueueInv s) (hroom : s.len ≠ cap) {k : Nat} (hk : k < s.len) :
    s.rp + BitVec.ofNat 8 k ≠ s.wp := by
  intro heq
  have hnat := congrArg BitVec.toNat heq
  obtain ⟨hlen, hwp⟩ := h
  have hlt : s.len < 256 := Nat.lt_of_le_of_ne hlen hroom
  rw [hwp, BitVec.toNat_add, BitVec.toNat_ofNat] at hnat
  omega

/-- An accepted enqueue appends its pair (R110, R111). -/
theorem queueContents_qWrite_room (d a : Byte) {s : State} (h : QueueInv s) (hroom : s.len ≠ cap) :
    queueContents (qWrite d a s) = queueContents s ++ [⟨d, a⟩] := by
  have hold : ∀ k ∈ List.range s.len,
      slot (setSlot s.buf s.wp ⟨d, a⟩) (s.rp + BitVec.ofNat 8 k) = slot s.buf (s.rp + BitVec.ofNat 8 k) :=
    fun k hk => slot_setSlot_other s.buf _ (h.live_ne_wp hroom (List.mem_range.mp hk))
  obtain ⟨level, -, heq⟩ := qWrite_accepts d a hroom
  rw [heq]
  simp only [queueContents, List.range_succ, List.map_append, List.map_cons, List.map_nil, ← h.wp_eq,
    slot_setSlot_same, List.map_congr_left hold]

/-- Settles O36: the four parts are the list's equations under the three operations of the queue. -/
theorem queueIsFirstInFirstOut : Obligations.QueueIsFirstInFirstOut := by
  intro s hinv
  refine ⟨queueContents_length s, fun d a => ?_, fun hlen => ⟨(slot s.buf s.rp).aux, ?_⟩,
    queueContents_of_empty rfl⟩
  · split
    · next hfull => rw [qWrite_full d a hfull]
    · next hroom => exact queueContents_qWrite_room d a hinv hroom
  · rw [queueContents_qRead hlen, qRead_entry hlen]

/-- Settles O37: with a live entry the read is a dequeue, whose byte, list and line call are those of the front entry. -/
theorem dataPortReadsDeliverTheQueueInOrder : Obligations.DataPortReadsDeliverTheQueueInOrder := by
  intro s e es hready hswitch _ hcontents
  have hlen : s.len ≠ 0 := by
    intro hempty
    rw [queueContents_of_empty hempty] at hcontents
    cases hcontents
  rw [queueContents_qRead hlen] at hcontents
  injection hcontents with hfront hrest
  refine ⟨_, exec_rd8A_ready hready, ?_⟩
  rw [readDataPort_queue hswitch]
  rw [qRead_entry hlen] at hrest ⊢
  subst hfront
  exact ⟨rfl, rfl, hrest, rfl⟩

/-! ### Raw pushes -/

theorem clear_pending_of_nil {s : State} (h : s.pending = []) : { s with pending := [] } = s := by
  rw [← h]

/-- With no key event half done a single push is made at once. -/
theorem pushAll_singleton (d a : Byte) {s : State} (h : s.pending = []) : pushAll [⟨d, a⟩] s = qWrite d a s := by
  have hwaits : s.pending ++ [⟨d, a⟩] = [⟨d, a⟩] := by rw [h, List.nil_append]
  rw [pushAll_of_cons hwaits, clear_pending_of_nil h]
  exact clear_pending_of_nil ((qWrite_pending d a s).trans h)

theorem rawPush_ready (d a : Byte) {s : State} (hready : s.ready = true) (h : s.pending = []) :
    rawPush d a s = .next { qWrite d a s with result := .none } := by
  rw [rawPush, whenReady_ready _ hready, pushAll_singleton d a h]
  rfl

/-- Settles O39: the stimulus form is the outside entry point at the word's four bits. -/
theorem rawPushQueuesItsEntry : Obligations.RawPushQueuesItsEntry := by
  intro a d b s hready h
  exact ⟨rawPush_ready d (a.setWidth 8) hready h, rawPush_ready d b hready h⟩

/-! ### The origin of entries -/

theorem AllPrimary.congr {s t : State} (h : AllPrimary s) (hbuf : t.buf = s.buf) (hpending : t.pending = s.pending) :
    AllPrimary t := by
  rw [AllPrimary, hbuf, hpending]
  exact h

theorem allPrimary_setSlot {b : Vector Entry 256} (h : ∀ k : Byte, (slot b k).aux = 0) (i : Byte) {e : Entry}
    (he : e.aux = 0) (k : Byte) : (slot (setSlot b i e) k).aux = 0 := by
  by_cases hk : k = i
  · rw [hk, slot_setSlot_same, he]
  · rw [slot_setSlot_other b e hk, h k]

/-- A push with auxiliary flag zero stores a keyboard entry or is dropped (R111, R133). -/
theorem allPrimary_qWrite (d : Byte) {a : Byte} {s : State} (h : AllPrimary s) (ha : a = 0) :
    AllPrimary (qWrite d a s) := by
  obtain ⟨-, heq⟩ | ⟨-, hbuf, -⟩ := qWrite_cases d a s
  · rw [heq]
    exact h
  · obtain ⟨hslots, hpending⟩ := h
    rw [AllPrimary, hbuf, qWrite_pending]
    exact ⟨allPrimary_setSlot hslots _ ha, hpending⟩

theorem allPrimary_pushEach {es : List Entry} {s : State} (h : AllPrimary s) (hes : ∀ e ∈ es, e.aux = 0) :
    AllPrimary (pushEach es s) := by
  induction es generalizing s with
  | nil => exact h
  | cons e es ih =>
    obtain ⟨he, hrest⟩ := List.forall_mem_cons.mp hes
    exact ih (allPrimary_qWrite e.data h he) hrest

/-- Of the pushes that wait and the operation's own, some go into the buffer and the others stay pending. -/
theorem allPrimary_pushAll {es : List Entry} {s : State} (h : AllPrimary s) (hes : ∀ e ∈ es, e.aux = 0) :
    AllPrimary (pushAll es s) := by
  have ⟨_, hpending⟩ := h
  have hall : ∀ e ∈ s.pending ++ es, e.aux = 0 := List.forall_mem_append.mpr ⟨hpending, hes⟩
  by_cases hne : s.pending ++ es = []
  · rw [pushAll_nothing hne]
    exact h
  · obtain ⟨k, -, -, heq, -, -⟩ := pushAll_cases es s hne
    obtain ⟨hslots, -⟩ := allPrimary_pushEach h fun e he => hall e (List.mem_of_mem_take he)
    rw [heq]
    exact ⟨hslots, fun e he => hall e (List.mem_of_mem_drop he)⟩

/-- The self-test byte is a keyboard entry too (D10). -/
theorem allPrimary_writeControl (v : Byte) {s : State} (h : AllPrimary s) : AllPrimary (writeControl v s) := by
  have hstored : AllPrimary (s.controlStored v) := h.congr rfl rfl
  rw [writeControl_eq]
  split
  · exact allPrimary_qWrite _ hstored rfl
  · exact hstored

theorem allPrimary_offer (k : Option Collaborator) {s : State} (h : AllPrimary s) : AllPrimary (offer k s) := by
  unfold offer
  split <;> exact h

theorem keyEntries_aux {bs : List Byte} {e : Entry} (h : e ∈ keyEntries bs) : e.aux = 0 := by
  obtain ⟨b, -, rfl⟩ := List.mem_map.mp h
  rfl

/-- The pushes of a key event are keyboard entries (R133); only a raw push carries an auxiliary byte (R114). -/
theorem pushesOf_aux {pause : Byte} {i : Instr} (hi : ∀ a d, i ≠ .qpush a d) {e : Entry} (he : e ∈ pushesOf pause i) :
    e.aux = 0 := by
  cases i with
  | keydown | keydownPause | keyup => exact keyEntries_aux he
  | qpush a d => exact absurd rfl (hi a d)
  | _ => cases he

theorem Effect.allPrimary {i : Instr} {s u : State} (e : Effect i s u) (hi : ∀ a d, i ≠ .qpush a d)
    (h : AllPrimary s) : AllPrimary u := by
  cases e with
  | unchanged | modeWrite | statusWrite => exact h
  | dataPortRead => exact h.congr (readDataPort_buf s) (readDataPort_pending s)
  | controlWrite v => exact allPrimary_writeControl v h
  | pushes => exact allPrimary_pushAll h fun _ he => pushesOf_aux hi he
  | binding k => exact allPrimary_offer (some k) h

/-- Settles O47: an operation keeps keyboard entries by its effect, and a dequeue's line call is to the line its entry
names. -/
theorem onlyRawPushesAreAuxiliary : Obligations.OnlyRawPushesAreAuxiliary := by
  refine ⟨fun i s t hi hs h => ?_, fun s ⟨hslots, _⟩ hlen => ?_⟩
  · obtain ⟨u, r, e, rfl⟩ := exec_effect h
    exact e.allPrimary hi hs
  · rw [qRead_entry hlen, arbDeassert_trace, hslots]
    rfl

end Sys2Proof.Machine
end

section
/-! PROOFS. The statements about the interrupt line arbiter (spec/42_interrupt_arbiter.md): its two operations (R120,
R121), and that with the disabled branch off no line is ever asserted (R123, R176). -/

namespace Sys2Proof.Machine

/-! ### The two operations of the arbiter -/

/-- Settles O49: the level of the primary line is `kbdLevel`, which reads bit 6 of `portB`. -/
theorem arbiterWritesBothLines : Obligations.ArbiterWritesBothLines := arbUpdate_eq

/-- Settles O50: a dequeue is an `ARB.DEASSERT` of its entry, and neither a fallback read nor a queue reset calls it. -/
theorem arbiterDeassertsOneLine : Obligations.ArbiterDeassertsOneLine := by
  refine ⟨fun a s => ?_, fun s hlen => ?_, fun s => ⟨fun hempty => ?_, qReset_trace s⟩⟩
  · rw [ite_not]
    rfl
  · rw [qRead_entry hlen]
  · rw [qRead_empty hempty]

/-! ### Silence under the shared operations -/

/-- A state whose trace only gained silent events has asserted no line. -/
theorem NoLineAsserted.append {s t : State} {es : List Event} (h : NoLineAsserted s) (htrace : t.trace = s.trace ++ es)
    (hes : ∀ e ∈ es, e.silent) : NoLineAsserted t := by
  rw [NoLineAsserted, htrace]
  exact List.forall_mem_append.mpr ⟨h, hes⟩

/-- An accepted enqueue writes both lines, each to level 0 without the disabled branch (R120, R123). -/
theorem noLineAsserted_qWrite (d a : Byte) {s : State} (hdead : s.cfg.arbLive = false) (h : NoLineAsserted s) :
    NoLineAsserted (qWrite d a s) := by
  obtain ⟨-, heq⟩ | ⟨-, -, -, -, level, htrace, hlevel⟩ := qWrite_cases d a s
  · rw [heq]
    exact h
  · refine h.append htrace (List.forall_mem_cons.mpr ⟨hlevel hdead, ?_⟩)
    exact List.forall_mem_singleton.mpr rfl

/-- A dequeue calls with level 0 whatever the configuration (R121). -/
theorem noLineAsserted_qRead {s : State} (h : NoLineAsserted s) : NoLineAsserted (qRead s).2 := by
  by_cases hempty : s.len = 0
  · rw [qRead_empty hempty]
    exact h
  · rw [qRead_entry hempty]
    exact h.append (arbDeassert_trace _ _) (List.forall_mem_singleton.mpr rfl)

theorem noLineAsserted_pushEach (es : List Entry) {s : State} (hdead : s.cfg.arbLive = false) (h : NoLineAsserted s) :
    NoLineAsserted (pushEach es s) := by
  induction es generalizing s with
  | nil => exact h
  | cons e es ih =>
    have hcfg : (qWrite e.data e.aux s).cfg.arbLive = false := by rw [qWrite_cfg, hdead]
    exact ih hcfg (noLineAsserted_qWrite e.data e.aux hdead h)

theorem noLineAsserted_pushAll (es : List Entry) {s : State} (hdead : s.cfg.arbLive = false) (h : NoLineAsserted s) :
    NoLineAsserted (pushAll es s) := by
  obtain ⟨es', ps, cs, heq⟩ := pushAll_eq_pushEach es s
  rw [heq]
  exact noLineAsserted_pushEach es' hdead h

theorem noLineAsserted_readDataPort {s : State} (h : NoLineAsserted s) : NoLineAsserted (readDataPort s).2 := by
  cases hswitch : clrBit s.portB with
  | true =>
    rw [readDataPort_config hswitch]
    exact h
  | false =>
    rw [readDataPort_queue hswitch]
    exact noLineAsserted_qRead h

/-- The gate call of a control-port write goes to the timer, and the self-test byte is an enqueue (R87). -/
theorem noLineAsserted_writeControl (v : Byte) {s : State} (hdead : s.cfg.arbLive = false) (h : NoLineAsserted s) :
    NoLineAsserted (writeControl v s) := by
  have hstored : NoLineAsserted (s.controlStored v) := h.append rfl (List.forall_mem_singleton.mpr trivial)
  rw [writeControl_eq]
  split
  · exact noLineAsserted_qWrite _ _ hdead hstored
  · exact hstored

theorem noLineAsserted_offer (k : Option Collaborator) {s : State} (h : NoLineAsserted s) :
    NoLineAsserted (offer k s) := by
  rw [NoLineAsserted, offer_trace]
  exact h

/-! ### Silence under operations and steps -/

theorem Effect.noLineAsserted {i : Instr} {s u : State} (e : Effect i s u) (hdead : s.cfg.arbLive = false)
    (h : NoLineAsserted s) : NoLineAsserted u := by
  cases e with
  | unchanged | modeWrite | statusWrite => exact h
  | dataPortRead => exact noLineAsserted_readDataPort h
  | controlWrite v => exact noLineAsserted_writeControl v hdead h
  | pushes => exact noLineAsserted_pushAll _ hdead h
  | binding k => exact noLineAsserted_offer (some k) h

theorem exec_noLineAsserted {i : Instr} {s t : State} (h : exec i s = .next t) (hdead : s.cfg.arbLive = false)
    (hs : NoLineAsserted s) : NoLineAsserted t := by
  obtain ⟨u, r, e, rfl⟩ := exec_effect h
  exact e.noLineAsserted hdead hs

theorem step_noLineAsserted {s t : State} (h : step s = .next t) (hdead : s.cfg.arbLive = false)
    (hs : NoLineAsserted s) : NoLineAsserted t := by
  obtain rfl | ⟨i, ws, cs, hexec⟩ | ⟨-, rfl⟩ := step_cases h
  · exact hs
  · exact exec_noLineAsserted (s := { s with stimuli := ws, schedule := cs }) hexec hdead hs
  · exact noLineAsserted_pushAll [] (s := { s with schedule := s.schedule.tail }) hdead hs

/-- Settles O51: no step changes the configuration, and without the disabled branch each kind of step only adds silent
events. -/
theorem noInterruptIsEverRequested : Obligations.NoInterruptIsEverRequested := by
  intro s t hdead hs h
  exact ⟨by rw [(step_keepsDevice h).cfg, hdead], step_noLineAsserted h hdead hs⟩

end Sys2Proof.Machine
end

section
/-! PROOFS. The statements about the scancode translator (spec/43_scancode_translator.md): several pushes in a row on the
queue as a list and on its buffer (R134), what each key event queues (R130 to R133), the key read back through the data
port, and the frame of the input operations. -/

namespace Sys2Proof.Machine

/-! ### Several pushes in a row -/

/-- Of several pushes the first ones that fit are appended (R27, R134). -/
theorem queueContents_pushEach (es : List Entry) {s : State} (h : QueueInv s) :
    queueContents (pushEach es s) = queueContents s ++ es.take (cap - s.len) := by
  induction es generalizing s with
  | nil => simp
  | cons e es ih =>
    rw [pushEach_cons, ih (queueInv_qWrite e.data e.aux h)]
    have ⟨hle, _⟩ := h
    obtain ⟨hfull, heq⟩ | ⟨hroom, -, -, hlen, -⟩ := qWrite_cases e.data e.aux s
    · rw [heq, hfull, Nat.sub_self, List.take_zero, List.take_zero]
    · have hfits : cap - s.len = cap - (s.len + 1) + 1 := by omega
      rw [queueContents_qWrite_room e.data e.aux h hroom, hlen, hfits, List.take_succ_cons, List.append_assoc,
        List.singleton_append]

/-- Settles O38: the occupancy is the length of the list of live entries. -/
theorem pushesBeyondCapacityAreDropped : Obligations.PushesBeyondCapacityAreDropped := by
  intro es s h
  have hcontents := queueContents_pushEach es h
  refine ⟨hcontents, ?_⟩
  obtain ⟨hle, -⟩ := h
  have hlength := congrArg List.length hcontents
  rw [List.length_append, List.length_take, queueContents_length, queueContents_length] at hlength
  simp only [cap] at hle hlength
  omega

theorem len_le_pushEach (es : List Entry) (s : State) : s.len ≤ (pushEach es s).len := by
  induction es generalizing s with
  | nil => exact Nat.le_refl _
  | cons e es ih =>
    refine Nat.le_trans ?_ (ih (qWrite e.data e.aux s))
    obtain ⟨-, heq⟩ | ⟨-, -, -, hlen, -⟩ := qWrite_cases e.data e.aux s
    · rw [heq]
    · rw [hlen]
      exact Nat.le_succ _

/-- A slot at least one place ahead of a cursor is not the cursor's own, and is one place nearer to the next. -/
theorem distance_from_cursor_succ {k x : Byte} (h : 1 ≤ (k - x).toNat) :
    k ≠ x ∧ (k - (x + 1)).toNat = (k - x).toNat - 1 := by
  refine ⟨?_, by bv_omega⟩
  rintro rfl
  simp at h

/-- Only the slots from the write cursor on, as many as entries were accepted, are written (R23, R111). -/
theorem slot_pushEach_other (es : List Entry) {s : State} {k : Byte}
    (h : (pushEach es s).len - s.len ≤ (k - s.wp).toNat) : slot (pushEach es s).buf k = slot s.buf k := by
  induction es generalizing s with
  | nil => rfl
  | cons e es ih =>
    rw [pushEach_cons] at h ⊢
    have hgrows := len_le_pushEach es (qWrite e.data e.aux s)
    obtain ⟨-, heq⟩ | ⟨-, hbuf, hwp, hlen, -⟩ := qWrite_cases e.data e.aux s
    · rw [heq] at h ⊢
      exact ih h
    · rw [hlen] at hgrows
      obtain ⟨hne, hdistance⟩ := distance_from_cursor_succ (k := k) (x := s.wp) (by omega)
      rw [ih (by rw [hlen, hwp]; omega), hbuf, slot_setSlot_other s.buf _ hne]

/-! ### Key events with nothing in between -/

/-- On a wired block with no key event half done and no interruption scheduled, an operation of the input agent makes
all its pushes, and the queue takes those that fit (R130 to R134). -/
theorem exec_input_undisturbed {i : Instr} {s : State} (hi : agentOf i = .input) (hready : s.ready = true)
    (hquiet : Undisturbed s) (hinv : QueueInv s) :
    ∃ t, exec i s = .next t ∧ t = { pushEach (pushesOf s.cfg.pauseCode i) s with result := .none } ∧
      queueContents t = queueContents s ++ (pushesOf s.cfg.pauseCode i).take (256 - s.len) := by
  refine ⟨_, ?_, rfl, queueContents_pushEach _ hinv⟩
  rw [exec_of_input s hi, whenReady_ready _ hready, pushAll_undisturbed _ hquiet]
  rfl

/-- Settles O40: the bytes of the statement are those a key press pushes. -/
theorem keyPressQueuesItsBytes : Obligations.KeyPressQueuesItsBytes :=
  fun code _ hready hquiet hinv => exec_input_undisturbed (i := .keydown code) rfl hready hquiet hinv

/-- Settles O41: the pause form pushes the pause sequence and never looks at the sentinel. -/
theorem pauseKeyQueuesSixBytes : Obligations.PauseKeyQueuesSixBytes :=
  fun _ hready hquiet hinv => exec_input_undisturbed (i := .keydownPause) rfl hready hquiet hinv

/-- Settles O42: the bytes of the statement are those a key release pushes. -/
theorem keyReleaseQueuesItsBytes : Obligations.KeyReleaseQueuesItsBytes :=
  fun code _ hready hquiet hinv => exec_input_undisturbed (i := .keyup code) rfl hready hquiet hinv

/-! ### Keys read back -/

/-- The block is wired, its data port reads the queue, and the queue holds `es` (R81, R110). -/
structure QueueHolds (es : List Entry) (s : State) : Prop where
  ready : s.ready = true
  switch : s.portB[7] = false
  queueInv : QueueInv s
  contents : queueContents s = es

theorem QueueHolds.len_eq {es : List Entry} {s : State} (h : QueueHolds es s) : s.len = es.length := by
  rw [← queueContents_length s, h.contents]

/-- A data-port read takes the front entry off and leaves a block that holds the others (R46). -/
theorem QueueHolds.read {e : Entry} {es : List Entry} {s : State} (h : QueueHolds (e :: es) s) :
    ∃ t, exec .rd8A s = .next t ∧ t.result = .byte e.data ∧ QueueHolds es t := by
  obtain ⟨t, hexec, hresult, -, hcontents, -⟩ :=
    dataPortReadsDeliverTheQueueInOrder s e es h.ready h.switch h.queueInv h.contents
  obtain ⟨-, hkept, -⟩ := busOperationFootprint .rd8A s t rfl hexec
  obtain ⟨hportB, -, -⟩ := hkept nofun
  have hinv : QueueInv t := by
    obtain ⟨u, r, heffect, rfl⟩ := exec_effect hexec
    exact heffect.queueInv h.queueInv
  exact ⟨t, hexec, hresult, (exec_keepsDevice hexec).ready h.ready, by rw [hportB, h.switch], hinv, hcontents⟩

/-- A key event that fits into the empty queue leaves exactly its pushes there (R130 to R134). -/
theorem QueueHolds.keyEvent {i : Instr} {s : State} (hi : agentOf i = .input) (hquiet : Undisturbed s)
    (h : QueueHolds [] s) (hfits : (pushesOf s.cfg.pauseCode i).length ≤ cap) :
    ∃ t, exec i s = .next t ∧ QueueHolds (pushesOf s.cfg.pauseCode i) t := by
  obtain ⟨t, hexec, heq, hcontents⟩ := exec_input_undisturbed hi h.ready hquiet h.queueInv
  rw [h.contents, h.len_eq] at hcontents
  have hportB : t.portB = s.portB := by rw [heq, pushEach_portB]
  have hinv : QueueInv t := by
    rw [heq]
    exact queueInv_pushEach _ h.queueInv
  exact ⟨t, hexec, (exec_keepsDevice hexec).ready h.ready, by rw [hportB, h.switch], hinv,
    hcontents.trans (List.take_of_length_le hfits)⟩

/-- A key event of the byte `b`, behind 0xE0 for an extended code, is read back byte by byte (R130, R131). -/
theorem keyEvent_read_back {i : Instr} {code b : Byte} {s : State} (hi : agentOf i = .input) (hquiet : Undisturbed s)
    (h : QueueHolds [] s) (hbytes : pushesOf s.cfg.pauseCode i = keyEntries (extension code ++ [b])) :
    ∃ t u, exec i s = .next t ∧ exec .rd8A t = .next u ∧
      (code[7] = false → u.result = .byte b ∧ u.len = 0) ∧
      (code[7] = true → u.result = .byte 0xE0 ∧ ∃ v, exec .rd8A u = .next v ∧ v.result = .byte b ∧ v.len = 0) := by
  cases hext : code[7] with
  | false =>
    have hplain : pushesOf s.cfg.pauseCode i = [⟨b, 0⟩] := by simp [hbytes, extension, isExtended, hext, keyEntries]
    obtain ⟨t, hpress, hholds⟩ := h.keyEvent hi hquiet (by simp [hplain])
    rw [hplain] at hholds
    obtain ⟨u, hread, hresult, hempty⟩ := hholds.read
    exact ⟨t, u, hpress, hread, fun _ => ⟨hresult, hempty.len_eq⟩, nofun⟩
  | true =>
    have hprefixed : pushesOf s.cfg.pauseCode i = [⟨0xE0, 0⟩, ⟨b, 0⟩] := by
      simp [hbytes, extension, isExtended, hext, keyEntries, extendedByte]
    obtain ⟨t, hpress, hholds⟩ := h.keyEvent hi hquiet (by simp [hprefixed, cap])
    rw [hprefixed] at hholds
    obtain ⟨u, hread, hresult, hrest⟩ := hholds.read
    obtain ⟨v, hread', hresult', hempty⟩ := hrest.read
    exact ⟨t, u, hpress, hread, nofun, fun _ => ⟨hresult, v, hread', hresult', hempty.len_eq⟩⟩

/-- A code that is not extended is its own make byte (R64). -/
theorem makeByte_of_not_extended {code : Byte} (h : code[7] = false) : makeByte code = code := by
  revert code
  decide

/-- Settles O44: off the sentinel a press pushes 0xE0 for an extended code, then the make byte. -/
theorem pressThenReadGivesTheCode : Obligations.PressThenReadGivesTheCode := by
  intro code s hready hquiet hinv hempty hswitch hne
  have hbytes : pushesOf s.cfg.pauseCode (.keydown code) = keyEntries (extension code ++ [makeByte code]) :=
    congrArg keyEntries (if_neg hne)
  obtain ⟨t, u, hpress, hread, hplain, hprefixed⟩ :=
    keyEvent_read_back rfl hquiet ⟨hready, hswitch, hinv, queueContents_of_empty hempty⟩ hbytes
  refine ⟨t, u, hpress, hread, fun hext => ?_, hprefixed⟩
  rw [makeByte_of_not_extended hext] at hplain
  exact hplain hext

/-- Settles O45: a release pushes 0xE0 for an extended code, then the break byte. -/
theorem releaseThenReadGivesTheCode : Obligations.ReleaseThenReadGivesTheCode :=
  fun code _ hready hquiet hinv hempty hswitch =>
    keyEvent_read_back (i := .keyup code) rfl hquiet ⟨hready, hswitch, hinv, queueContents_of_empty hempty⟩ rfl

/-! ### The frame -/

/-- Settles O48: an operation of the input agent is a run of enqueues, whatever the schedule. -/
theorem inputOperationFootprint : Obligations.InputOperationFootprint := by
  intro i s t hi _ hexec
  rw [exec_of_input s hi] at hexec
  obtain ⟨-, rfl⟩ := whenReady_next hexec
  obtain ⟨es, ps, cs, heq⟩ := pushAll_eq_pushEach (pushesOf s.cfg.pauseCode i) s
  rw [heq]
  refine ⟨?_, fun k hk => slot_pushEach_other es hk⟩
  simp [len_le_pushEach]

end Sys2Proof.Machine
end

section
/-! PROOFS. The statements about the platform (spec/60_exceptions.md): wiring (R151), operations before the block is
wired (R152), and the persisted record with its loading (R153). -/

namespace Sys2Proof.Machine

/-! ### Binding -/

/-- Settles O53: `offer` sets the one bit of the collaborator's kind, and an object of any other kind sets none. -/
theorem bindBindsOneCollaborator : Obligations.BindBindsOneCollaborator :=
  fun _ => ⟨rfl, rfl, rfl, rfl, fun pause =>
    ⟨decodeInvertsEncode pause (.bind .timer) rfl, decodeInvertsEncode pause (.bind .irq) rfl⟩⟩

/-! ### Before wiring -/

/-- Every operation but the host's has the wiring precondition (R152, D19). -/
theorem exec_needs_ready {i : Instr} (s : State) (hi : agentOf i ≠ .host) : ∃ t, exec i s = whenReady s t := by
  cases i with
  | bind | snapshot => exact absurd rfl hi
  | _ => exact ⟨_, rfl⟩

/-- The host's operations complete in every state (R152). -/
theorem exec_host_completes {i : Instr} (s : State) (hi : agentOf i = .host) : ∃ t, exec i s = .next t := by
  cases i with
  | bind | snapshot => exact ⟨_, rfl⟩
  | _ => cases hi

/-- Settles O13: the operations with the wiring precondition are refused by it, and the host's have none. -/
theorem unwiredOperationsAreRefused : Obligations.UnwiredOperationsAreRefused := by
  intro i s hunwired
  refine ⟨fun hi => ?_, exec_host_completes s⟩
  obtain ⟨t, hexec⟩ := exec_needs_ready s hi
  rw [hexec, whenReady_unwired t hunwired]

/-! ### The persisted record -/

theorem recordOf_data (s : State) (k : Nat) (h : k < 256) : (recordOf s).data[k] = s.buf[k].data := by
  simp [recordOf]

theorem recordOf_aux (s : State) (k : Nat) (h : k < 256) : (recordOf s).aux[k] = s.buf[k].aux := by
  simp [recordOf]

/-- Settles O54: the record returned is `recordOf`, whose arrays hold every slot of the buffer. -/
theorem snapshotReturnsTheRecord : Obligations.SnapshotReturnsTheRecord :=
  fun s => ⟨recordOf s, rfl, rfl, rfl, rfl, rfl, fun k h => ⟨recordOf_data s k h, recordOf_aux s k h⟩⟩

/-! ### Loading a record -/

theorem Record.entries_getElem (r : Record) (k : Nat) (h : k < 256) : r.entries[k] = ⟨r.data[k], r.aux[k]⟩ := by
  simp [Record.entries]

/-- The two arrays of a record hold the buffer they were taken from (R153 (a)). -/
theorem recordOf_entries (s : State) : (recordOf s).entries = s.buf := by
  refine Vector.ext fun k h => ?_
  rw [Record.entries_getElem, recordOf_data, recordOf_aux]

theorem Record.wf_iff (r : Record) :
    r.wf = true ↔ r.capacity = 256 ∧ r.readPosition < 256 ∧ r.writePosition < 256 ∧ r.length ≤ 256 ∧
      r.writePosition = (r.readPosition + r.length) % 256 := by
  simp [Record.wf, and_assoc]

/-- A cursor comes back from the number a record holds (R24). -/
theorem cursor_ofNat_toNat (x : Byte) : BitVec.ofNat 8 x.toNat = x := by
  simp

/-- The cursors are bytes, so the queue's invariant is all a record needs of its state (R24, R25, R28). -/
theorem recordOf_wf {s : State} (h : QueueInv s) : (recordOf s).wf = true := by
  obtain ⟨hlen, hwp⟩ := h
  exact (Record.wf_iff _).mpr ⟨rfl, s.rp.isLt, s.wp.isLt, hlen, hwp⟩

theorem loadRecord_wf {r : Record} (u : State) (h : r.wf = true) :
    loadRecord r u = .next { u with
      buf := r.entries, rp := BitVec.ofNat 8 r.readPosition, wp := BitVec.ofNat 8 r.writePosition, len := r.length,
      result := .none } := if_pos h

theorem loadRecord_not_wf {r : Record} (u : State) (h : ¬ r.wf = true) : loadRecord r u = .refused .badRecord :=
  if_neg h

/-- Settles O55: the record of a queue that keeps its invariant is well formed and describes that queue, and each defect
named is one that well-formedness excludes. -/
theorem loadedSnapshotRestoresTheQueue : Obligations.LoadedSnapshotRestoresTheQueue := by
  refine ⟨fun s u h => ?_, fun r u hbad => loadRecord_not_wf u fun hwf => ?_⟩
  · have hrp : BitVec.ofNat 8 (recordOf s).readPosition = s.rp := cursor_ofNat_toNat s.rp
    have hwp : BitVec.ofNat 8 (recordOf s).writePosition = s.wp := cursor_ofNat_toNat s.wp
    rw [loadRecord_wf u (recordOf_wf h), recordOf_entries, hrp, hwp]
    rfl
  · obtain ⟨hcapacity, hread, hwrite, hlength, hcursors⟩ := r.wf_iff.mp hwf
    omega

end Sys2Proof.Machine
end

section
/-! PROOFS. The statements about reset and hazards (spec/70_reset_and_hazards.md): construction (R33, R165), the
clear-keyboard command (R168), the placed instruction (R169), reads between the pushes of one key event (R180),
and the mode register, which gates nothing (R182). -/

namespace Sys2Proof.Machine

/-! ### Construction -/

theorem construct_wf {c : Config} (h : c.wf = true) : construct c = .next (State.ofConfig c) := if_pos h

theorem construct_not_wf {c : Config} (h : ¬ c.wf = true) : construct c = .refused .badConfig := if_neg h

theorem config_wf_iff (c : Config) :
    c.wf = true ↔ c.memBytes < 2 ^ 25 ∧ (131072 ≤ c.memBytes ∨ c.ramCode = 0) ∧
      [c.portAAddr, c.portBAddr, c.portCAddr, c.portCmdAddr].Nodup := by
  simp only [Config.wf, Bool.and_eq_true, Bool.or_eq_true, decide_eq_true_eq, beq_iff_eq, and_assoc]

/-- Settles O58: construction is `State.ofConfig`, each defect named is one that well-formedness excludes, and reset is
the state of the defaults. -/
theorem constructionSetsEveryElement : Obligations.ConstructionSetsEveryElement := by
  refine ⟨fun c h => ⟨State.ofConfig c, construct_wf h, rfl, rfl, rfl, rfl, rfl, rfl, rfl, rfl, rfl, rfl, rfl, rfl, rfl,
    rfl⟩, fun c hbad => construct_not_wf fun hwf => ?_, rfl, rfl, rfl, rfl, rfl, rfl, rfl⟩
  obtain ⟨hmem, hram, hports⟩ := (config_wf_iff c).mp hwf
  obtain hlarge | ⟨hsmall, hcode⟩ | hclash := hbad
  · omega
  · exact hcode (hram.resolve_left (by omega))
  · exact hclash hports

/-! ### The clear-keyboard command -/

/-- Settles O22: bit 6 is clear, so the write stops at what it does before the self-test byte. -/
theorem clearKeyboardEmptiesOnlyTheQueue : Obligations.ClearKeyboardEmptiesOnlyTheQueue := by
  intro v s hready hclear hquiet
  rw [exec_wr8B_ready hready, writeControl_no_push (.inl hquiet)]
  simp [State.controlStored, State.returning, hclear]

/-! ### The placed instruction -/

theorem needsWiring_of_decode {pause : Byte} {w : StimWord} {i : Instr} (h : decode pause w = .ok i) :
    needsWiring pause w = decide (agentOf i ≠ .host) := by
  simp [needsWiring, decodeWord, h, Except.toOption]

/-- The state a word is staged in: wired unless its operation is the host's, and the word the next stimulus (log 1). -/
theorem stage_of_decode {s : State} {w : StimWord} {i : Instr} (h : decode s.cfg.pauseCode w = .ok i) :
    stage w s = { (if agentOf i = .host then s else s.wired) with pending := [], stimuli := w :: s.stimuli } := by
  rw [stage, needsWiring_of_decode h]
  by_cases hhost : agentOf i = .host <;> simp [hhost]

/-- Settles O11: staging leaves nothing pending, so the step runs the staged word, and wiring leaves the stimuli. -/
theorem placedWordRunsNext : Obligations.PlacedWordRunsNext := by
  intro s w i hw hdecode
  rw [State.withFetchWord, Nat.mod_eq_of_lt hw, stage_of_decode hdecode]
  split <;> exact stepRunsTheDecodedOperation _ _ s.stimuli i rfl rfl hdecode

/-! ### Reads between the pushes of a key event -/

/-- What the outside has waiting: the pushes of the current key event, the choices at its points, and the stimuli. -/
structure AgentsWait (ps : List Entry) (cs : List Bool) (ws : List StimWord) (s : State) : Prop where
  pending : s.pending = ps
  schedule : s.schedule = cs
  stimuli : s.stimuli = ws

/-- The byte before the read cursor, which a read of the empty queue falls back to (R112). -/
def FallsBackTo (b : Byte) (s : State) : Prop := (slot s.buf (s.rp - 1)).data = b

section

variable {s t : State} {p q : Entry} {ps es : List Entry} {cs : List Bool} {ws : List StimWord} {b : Byte}

theorem AgentsWait.read (h : AgentsWait ps cs ws s) (hexec : exec .rd8A s = .next t) : AgentsWait ps cs ws t := by
  obtain ⟨u, r, e, rfl⟩ := exec_busEffect rfl hexec
  obtain ⟨-, -, -, -, -, hstimuli, hpending, hschedule⟩ := e.fixed
  exact ⟨hpending.trans h.pending, hschedule.trans h.schedule, hstimuli.trans h.stimuli⟩

theorem QueueHolds.front (h : QueueHolds (p :: es) s) : slot s.buf s.rp = p := by
  have hlen : s.len ≠ 0 := by simp [h.len_eq]
  have hcontents := h.contents
  rw [queueContents_qRead hlen] at hcontents
  exact (List.cons.inj hcontents).1

/-- A dequeue leaves the entry it delivered straight before the read cursor. -/
theorem QueueHolds.read_fallsBackTo (h : QueueHolds (p :: es) s) (hexec : exec .rd8A s = .next t) :
    FallsBackTo p.data t := by
  obtain ⟨-, -, -, hentry⟩ := dataPortRead 0 s h.ready
  rw [hentry h.switch (by simp [h.len_eq])] at hexec
  injection hexec with ht
  rw [← ht, ← h.front]
  simp [FallsBackTo]

/-- A read of the empty queue returns the fallback byte and leaves the queue empty (R112 (b)). -/
theorem QueueHolds.read_empty (h : QueueHolds [] s) (hback : FallsBackTo b s) :
    ∃ t, exec .rd8A s = .next t ∧ t.result = .byte b ∧ QueueHolds [] t := by
  obtain ⟨-, -, hempty, -⟩ := dataPortRead 0 s h.ready
  exact ⟨_, hempty h.switch h.len_eq, congrArg Result.byte hback, { h with }⟩

theorem decode_dataPortWord (pause : Byte) : decode pause 0x0000 = .ok .rd8A := (workedEncodingsDecode pause).1

/-- Where the schedule gives the point away and a data-port read waits, the step is that read (R51). -/
theorem AgentsWait.step_eq_read (h : AgentsWait (p :: ps) (true :: cs) (0x0000 :: ws) s) :
    step s = exec .rd8A { s with stimuli := ws, schedule := cs } :=
  stepRunsAnotherAgentBetweenPushes s cs 0x0000 ws .rd8A (by simp [h.pending]) h.schedule h.stimuli
    (decode_dataPortWord _) nofun

/-- A data-port read between two pushes takes the front entry, which is then what the queue falls back to. -/
theorem step_read_between (hqueue : QueueHolds (q :: es) s)
    (hwait : AgentsWait (p :: ps) (true :: cs) (0x0000 :: ws) s) :
    ∃ t, step s = .next t ∧ t.result = .byte q.data ∧ QueueHolds es t ∧ FallsBackTo q.data t ∧
      AgentsWait (p :: ps) cs ws t := by
  have hholds : QueueHolds (q :: es) { s with stimuli := ws, schedule := cs } := { hqueue with }
  have hleft : AgentsWait (p :: ps) cs ws { s with stimuli := ws, schedule := cs } := ⟨hwait.pending, rfl, rfl⟩
  obtain ⟨t, hexec, hresult, hrest⟩ := hholds.read
  exact ⟨t, hwait.step_eq_read.trans hexec, hresult, hrest, hholds.read_fallsBackTo hexec, hleft.read hexec⟩

/-- A data-port read of the empty queue between two pushes returns the fallback byte. -/
theorem step_read_between_of_empty (hqueue : QueueHolds [] s) (hback : FallsBackTo b s)
    (hwait : AgentsWait (p :: ps) (true :: cs) (0x0000 :: ws) s) :
    ∃ t, step s = .next t ∧ t.result = .byte b ∧ QueueHolds [] t ∧ AgentsWait (p :: ps) cs ws t := by
  have hholds : QueueHolds [] { s with stimuli := ws, schedule := cs } := { hqueue with }
  have hleft : AgentsWait (p :: ps) cs ws { s with stimuli := ws, schedule := cs } := ⟨hwait.pending, rfl, rfl⟩
  obtain ⟨t, hexec, hresult, hempty⟩ := hholds.read_empty hback
  exact ⟨t, hwait.step_eq_read.trans hexec, hresult, hempty, hleft.read hexec⟩

/-- A data-port read with no key event half done. -/
theorem step_read_after (hqueue : QueueHolds (q :: es) s) (hwait : AgentsWait [] cs (0x0000 :: ws) s) :
    ∃ t, step s = .next t ∧ t.result = .byte q.data ∧ QueueHolds es t ∧ AgentsWait [] cs ws t := by
  have hholds : QueueHolds (q :: es) { s with stimuli := ws } := { hqueue with }
  have hleft : AgentsWait [] cs ws { s with stimuli := ws } := ⟨hwait.pending, hwait.schedule, rfl⟩
  have hstep := stepRunsTheDecodedOperation s 0x0000 ws .rd8A hwait.pending hwait.stimuli (decode_dataPortWord _)
  obtain ⟨t, hexec, hresult, hrest⟩ := hholds.read
  exact ⟨t, hstep.trans hexec, hresult, hrest, hleft.read hexec⟩

/-- A single push into the empty queue is queued, whatever the agents then have waiting. -/
theorem QueueHolds.push (h : QueueHolds [] s) (p : Entry) (ps : List Entry) (cs : List Bool) :
    QueueHolds [p] { pushEach [p] s with pending := ps, schedule := cs, result := .none } where
  ready := (qWrite_ready p.data p.aux s).trans h.ready
  switch := by simpa using h.switch
  queueInv := queueInv_pushEach [p] h.queueInv
  contents := by
    have hcontents := queueContents_pushEach [p] h.queueInv
    rw [h.contents, h.len_eq] at hcontents
    exact hcontents

/-- Where the schedule gives the first point away, a key event makes its first push and keeps the others (R51). -/
theorem exec_input_interrupted {i : Instr} (hi : agentOf i = .input) (hqueue : QueueHolds [] s)
    (hwait : AgentsWait [] (true :: cs) ws s) (hpushes : pushesOf s.cfg.pauseCode i = p :: ps) :
    ∃ t, exec i s = .next t ∧ QueueHolds [p] t ∧ AgentsWait ps (true :: cs) ws t := by
  obtain ⟨k, hpos, -, hexec, -, hgo⟩ := keyEventUnderAnySchedule i s hi hqueue.ready
  obtain rfl : k = 1 := by
    by_contra hne
    exact hgo 0 (by omega) (by simp [hwait.schedule])
  simp only [hwait.pending, hpushes, hwait.schedule] at hexec
  exact ⟨_, hexec, hqueue.push p ps _, rfl, rfl, by simpa using hwait.stimuli⟩

/-- Where the point is kept, the step makes the last push of the key event (R51). -/
theorem step_last_push (hqueue : QueueHolds [] s) (hwait : AgentsWait [p] (false :: cs) ws s) :
    ∃ t, step s = .next t ∧ QueueHolds [p] t ∧ AgentsWait [] cs ws t := by
  obtain ⟨k, hpos, hle, hstep, -, -⟩ := stepGoesOnWithTheKeyEvent s hqueue.ready (by simp [hwait.pending])
    (.inl (by simp [hwait.schedule]))
  rw [hwait.pending] at hle hstep
  obtain rfl : k = 1 := Nat.le_antisymm hle hpos
  rw [hwait.schedule] at hstep
  exact ⟨_, hstep, hqueue.push p [] cs, rfl, rfl, by simpa using hwait.stimuli⟩

end

/-- An extended key off the sentinel pushes 0xE0 and then its make byte (R130). -/
theorem pushesOf_keydown_extended {pause code : Byte} (hne : code ≠ pause) (hext : code[7] = true) :
    pushesOf pause (.keydown code) = [⟨0xE0, 0⟩, ⟨code &&& 0x7F, 0⟩] := by
  simp [pushesOf, pressBytes, hne, extension, isExtended, hext, keyEntries, extendedByte, makeByte]

/-- Settles O46: the press queues 0xE0 and stops; the first read takes it, the second finds the queue empty and
falls back to it; then the code is pushed and read. -/
theorem prefixReadTwiceBetweenPushes : Obligations.PrefixReadTwiceBetweenPushes := by
  intro code s hready hinv hempty hswitch hne hext hpending hschedule hstimuli
  have hqueue : QueueHolds [] s := ⟨hready, hswitch, hinv, queueContents_of_empty hempty⟩
  obtain ⟨t₀, hpress, hqueue₀, hwait₀⟩ := exec_input_interrupted (i := .keydown code) rfl hqueue
    ⟨hpending, hschedule, hstimuli⟩ (pushesOf_keydown_extended hne hext)
  obtain ⟨t₁, hstep₁, hresult₁, hqueue₁, hback₁, hwait₁⟩ := step_read_between hqueue₀ hwait₀
  obtain ⟨t₂, hstep₂, hresult₂, hqueue₂, hwait₂⟩ := step_read_between_of_empty hqueue₁ hback₁ hwait₁
  obtain ⟨t₃, hstep₃, hqueue₃, hwait₃⟩ := step_last_push hqueue₂ hwait₂
  obtain ⟨t₄, hstep₄, hresult₄, -, hwait₄⟩ := step_read_after hqueue₃ hwait₃
  exact ⟨t₀, t₁, t₂, t₃, t₄, hpress, hstep₁, hresult₁, hstep₂, hresult₂, hstep₃, hstep₄, hresult₄, hwait₄.stimuli⟩

/-! ### The mode register -/

/-- The state with another mode byte (R21). -/
def State.withMode (m : Byte) (s : State) : State := { s with mode := m }

theorem qWrite_withMode (d a m : Byte) (s : State) : qWrite d a (s.withMode m) = (qWrite d a s).withMode m := by
  by_cases h : s.len = cap
  · rw [qWrite_full d a h, qWrite_full d a (s := s.withMode m) h]
  · rw [qWrite_room d a h, qWrite_room d a (s := s.withMode m) h]
    rfl

theorem qRead_withMode (m : Byte) (s : State) : qRead (s.withMode m) = ((qRead s).1, (qRead s).2.withMode m) := by
  by_cases h : s.len = 0
  · rw [qRead_empty h, qRead_empty (s := s.withMode m) h]
    rfl
  · rw [qRead_entry h, qRead_entry (s := s.withMode m) h]
    rfl

theorem readDataPort_withMode (m : Byte) (s : State) :
    readDataPort (s.withMode m) = ((readDataPort s).1, (readDataPort s).2.withMode m) := by
  cases h : clrBit s.portB with
  | true =>
    rw [readDataPort_config h, readDataPort_config (s := s.withMode m) h]
    rfl
  | false =>
    rw [readDataPort_queue h, readDataPort_queue (s := s.withMode m) h, qRead_withMode]
    rfl

theorem writeControl_withMode (v m : Byte) (s : State) :
    writeControl v (s.withMode m) = (writeControl v s).withMode m := by
  have hstored : (s.withMode m).controlStored v = (s.controlStored v).withMode m := rfl
  rw [writeControl_eq, writeControl_eq, hstored]
  split
  · rw [qWrite_withMode]
  · rfl

theorem drain_withMode (m : Byte) (es : List Entry) (s : State) :
    drain es (s.withMode m) = (drain es s).withMode m := by
  induction es generalizing s with
  | nil => rfl
  | cons e es ih =>
    by_cases h : s.schedule.head? = some true
    · rw [drain, drain, if_pos h, if_pos (show (s.withMode m).schedule.head? = some true from h)]
      rfl
    · rw [drain, drain, if_neg h, if_neg (show ¬ (s.withMode m).schedule.head? = some true from h), ← ih,
        ← qWrite_withMode]
      rfl

theorem pushAll_withMode (m : Byte) (es : List Entry) (s : State) :
    pushAll es (s.withMode m) = (pushAll es s).withMode m := by
  cases h : s.pending ++ es with
  | nil => rw [pushAll_nothing h, pushAll_nothing (s := s.withMode m) h]
  | cons e rest =>
    rw [pushAll_of_cons h, pushAll_of_cons (s := s.withMode m) h, ← drain_withMode, ← qWrite_withMode]
    rfl

/-- The wiring precondition does not look at the mode byte. -/
theorem whenReady_withMode {s u v t : State} {r : Result} (m : Byte) (h : whenReady s (u.returning r) = .next t)
    (hv : v = u.withMode m) : whenReady (s.withMode m) (v.returning r) = .next (t.withMode m) := by
  obtain ⟨hready, rfl⟩ := whenReady_next h
  rw [hv]
  exact whenReady_ready _ hready

/-- An operation that neither returns nor replaces the mode byte completes from any, in the same state up to it. -/
theorem exec_withMode {i : Instr} {s t : State} (m : Byte) (hread : i ≠ .rd8Cmd) (hwrite : ∀ f, i ≠ .modeset f)
    (h : exec i s = .next t) : exec i (s.withMode m) = .next (t.withMode m) := by
  cases i with
  | rd8Cmd => exact absurd rfl hread
  | modeset f => exact absurd rfl (hwrite f)
  | rd8A =>
    show whenReady _ (State.returning (.byte (readDataPort _).1) (readDataPort _).2) = _
    rw [readDataPort_withMode]
    exact whenReady_withMode m h rfl
  | wr8B v => exact whenReady_withMode m h (writeControl_withMode v m s)
  | keydown | keydownPause | keyup | qpush => exact whenReady_withMode m h (pushAll_withMode m _ s)
  | bind k =>
    injection h with h
    rw [← h]
    cases k <;> rfl
  | snapshot =>
    injection h with h
    rw [← h]
    rfl
  | rd8B | rd8C | rd8OtherLow | rd8OtherHigh | wr8A | wr8C | wr8OtherLow | wr8OtherHigh
  | rd16 | wr16 | rd32 | wr32 | bitset | bitclr => exact whenReady_withMode m h rfl

/-- Settles O29: the two runs end in states that differ in `mode` alone, and a mode-set write overwrites the
difference. -/
theorem modeRegisterGatesNothing : Obligations.ModeRegisterGatesNothing := by
  intro i s m hready
  refine ⟨fun hread hwrite => ?_, fun f => ?_⟩
  · obtain ⟨t, hexec⟩ := exec_completes i hready
    exact ⟨t, hexec, exec_withMode m hread hwrite hexec⟩
  · rw [exec_modeset_ready hready, exec_modeset_ready (s := { s with mode := m }) hready]

end Sys2Proof.Machine
end
